-- ==== Sys2Proof/Word.lean ====
section
/-! DEFINITION. The word types of the converter-sequencer, each with the width the spec gives it (R7, R9). -/

namespace Sys2Proof

/-- DATA_W, and every 8-bit operand (R7, R9). -/
abbrev Byte := BitVec 8

/-- ADDR_W: an address of the chip's register space (R7, R50). -/
abbrev Addr := BitVec 8

/-- NIB_W: attack, decay, sustain, release, scaled volume (R7). -/
abbrev Nibble := BitVec 4

/-- PW_W: the stored pulse width, 0 to 4095 (R7). -/
abbrev PulseWidth := BitVec 12

/-- The pulse-width operand, 0 to 65535 (R9, R84). -/
abbrev WidthOperand := BitVec 16

/-- The raw note operand `N`, Q8.8 two's complement: the note is `signed(N) / 256` (R9, R92). -/
abbrev RawNote := BitVec 16

/-- FREQ_W: the frequency register word (R7). -/
abbrev FreqWord := BitVec 16

/-- CMD_W: one command word at the command port (R9, R82). -/
abbrev CmdWord := BitVec 48

/-- The width of the result register `res` (R9, R29). -/
abbrev ResBits := BitVec 3

/-- A voice index that has passed its check: NVOICES = 3, indexed 0, 1, 2 (R7). -/
abbrev VoiceIdx := Fin 3

end Sys2Proof
end

