-- ==== Sys2Proof/Config.lean ====
section
/-! DEFINITION. The parameters the spec leaves OPEN (R8): what an implementation fixes.
Their default values stand in Machine/Constants.lean. -/

namespace Sys2Proof

/-- The three OPEN parameters of R8. "The model takes each as an argument (a configuration field)". -/
structure Params where
  /-- ADDR_FILTER, the address of the filter-routing register (D12, U15). -/
  addrFilter : Addr
  /-- ADDR_VOLUME, the address of the master-volume register (D12, U15). -/
  addrVolume : Addr
  /-- RESET_WAVE, the waveform field of every voice after block reset (D13, U14). -/
  resetWave : Byte
  deriving DecidableEq, Repr

end Sys2Proof
end

