-- ==== Sys2Proof/Machine/Constants.lean ====
section
/-! DEFINITION. The constants of R7 that are not widths, and the default values of the OPEN parameters (R8). -/

namespace Sys2Proof.Machine

/-- VOICE_STRIDE: bytes in one voice's register block (R7, R51). -/
def voiceStride : Nat := 7

/-- VOL_MAX: the top of the caller's volume range (R7). -/
def volMax : Nat := 127

/-- VEL_MAX: the top of the velocity range (R7). -/
def velMax : Nat := 127

/-- The top of a nibble field's range (R7, NIB_W). -/
def nibbleMax : Nat := 15

/-- The top of the pulse-width range (R7, PW_W). -/
def widthMax : Nat := 4095

/-- A4_NOTE, as a raw Q8.8 value: 69 * 256 = 17664 (R7, R116). -/
def a4Raw : Int := 69 * 256

/-- `2 * 440 * 2500`: twice A4_HZ over HZ_PER_STEP is this number over 149 (R7, R112, R118). -/
def twiceA4Steps : Nat := 2200000

/-- HZ_PER_STEP is exactly 149/2500 (R7, R112). -/
def stepNumerator : Nat := 149

/-- The defaults of R8. ADDR_FILTER and ADDR_VOLUME are "[from general knowledge, not in source]"
(D12); RESET_WAVE = 0x00 is D13. DESIGN CHOICE (log 2): `State.reset` uses these values.
UNSAFE for a claim about `State.reset` alone; statements quantify over the parameters. -/
def defaultParams : Params :=
  { addrFilter := 0x17, addrVolume := 0x18, resetWave := 0x00 }

end Sys2Proof.Machine
end

