-- ==== Sys2Proof/Machine/State.lean ====
section
/-! DEFINITION. The state: the block's 122 bits (R38), and beside them what the spec keeps outside the
block (R20): parameters, bus trace, ghost chip and the host's list of commands. -/

namespace Sys2Proof.Machine

/-- One call on the Register Bus (R11, R182). -/
inductive BusEvent where
  /-- `startClock()`. -/
  | startClock
  /-- `reset()`. -/
  | reset
  /-- `writeRegister(address, data)`. -/
  | write (addr : Addr) (data : Byte)
  deriving DecidableEq, Repr

/-- The chip's registers as far as the bus trace tells them (R33): the addresses whose value is known,
rising, each with its byte. An address that is not listed is `unknown`. -/
abbrev Memory := List Host.Cell

/-- The ghost chip. `none`: no `Reset` event since block reset, so every register is `unknown`, and stays so
whatever is written (U13, R204: "unknown until the first write after a `Reset`"). -/
abbrev Chip := Option Memory

/-- The result codes of R172. -/
inductive ResultCode where
  | ok
  | errVoice
  | errPw
  | errRange
  | errIllegal
  deriving DecidableEq, Repr

/-- The four envelope fields of a voice (R24). -/
structure Adsr where
  att : Nibble
  dec : Nibble
  sus : Nibble
  rel : Nibble
  deriving DecidableEq, Repr

/-- The shadow record of one voice (R21). -/
structure Voice where
  /-- the selected waveform as its control-register mask, RESET_WAVE before the first `setWaveform` (R22). -/
  wave : Byte
  /-- the gate, "isPlaying" (R23). -/
  gate : Bool
  /-- the envelope (R24). -/
  adsr : Adsr
  /-- the pulse width (R25). -/
  pw : PulseWidth
  /-- the filter-enabled flag (R26). -/
  filt : Bool
  deriving DecidableEq, Repr

/-- The three voice records (R7, R21). -/
structure Voices where
  v0 : Voice
  v1 : Voice
  v2 : Voice
  deriving DecidableEq, Repr

/-- The host at the command port (R31, R80, D17): the words it has still to present, in order, and the
index of the next one. Not state of the block. -/
structure HostPort where
  pending : List CmdWord
  index : Nat
  deriving DecidableEq, Repr

/-- The machine. `voices`, `vol4`, `res`, `err` are the block's state, all of it (R38). The other fields
are the MODEL's own (log 1): `params` is configuration, which no step writes; `trace` is the output
since block reset, oldest first (R13); `chip` is ghost state that no command reads (R33); `host` is the
input side. -/
structure State where
  params : Params
  voices : Voices
  /-- the master volume as last written to the chip (R27). -/
  vol4 : Nibble
  /-- the result code of the last completed command (R29). -/
  res : ResBits
  /-- sticky: some command since block reset was rejected (R30). -/
  err : Bool
  trace : List BusEvent
  chip : Chip
  host : HostPort
  deriving DecidableEq, Repr

/-- No step of this machine faults: the spec describes no condition that stops the block ("the block
itself never stops", R185), so this type has no constructor. Nothing raises it, which is exact. -/
inductive Fault where
  deriving DecidableEq, Repr

/-- The refusals. -/
inductive Refusal where
  /-- Raised only by an arm of `exec` whose instruction has no meaning yet: safe. No arm raises it. -/
  | notModelled (mnemonic : String)
  deriving DecidableEq, Repr

/-- A voice record after block reset: gate off and filter off by the source, the rest by D13 (R36). -/
def voiceReset (p : Params) : Voice :=
  { wave := p.resetWave, gate := false, adsr := ⟨0, 0, 0, 0⟩, pw := 0, filt := false }

/-- Block reset with given parameters (R36, R200): no bus event has occurred (R201) and every chip
register is unknown (R33). DESIGN CHOICE (log 4): the host has presented nothing and has nothing to
present. -/
def State.resetWith (p : Params) : State :=
  { params := p
    voices := ⟨voiceReset p, voiceReset p, voiceReset p⟩
    vol4 := 0
    res := 0
    err := false
    trace := []
    chip := none
    host := ⟨[], 0⟩ }

/-- Block reset with the default parameters of R8. -/
def State.reset : State := State.resetWith defaultParams

end Sys2Proof.Machine
end

