-- ==== Sys2Proof/Machine/Converter.lean ====
section
/-! DEFINITION. The numeric converter (R110 to R127): pure functions from operands and shadow fields to
register bits. Its real-number definitions (R111 to R115) stand in RealConverter.lean. -/

namespace Sys2Proof.Machine

/-- `k = signed(N) - 17664` (R116). -/
def noteExponent (n : RawNote) : Int := n.toInt - a4Raw

/-- `x ^ 3072`. Exponents are kept at 256 or below so that Lean's evaluators accept them. -/
def pow3072 (x : Nat) : Nat := (x ^ 256) ^ 12

/-- `2 ^ e`, for the same reason in two parts. -/
def pow2 (e : Nat) : Nat := (2 ^ (e / 256)) ^ 256 * 2 ^ (e % 256)

/-- Whether `n - 1/2` is at most `x(N)`: the left inequality of R118, for `k` the exponent of R116.
DEDUCED (log 8): `≤`, where R118 writes `<`, is R113's "an exact half going up" taken literally; by
R117 equality never holds, so the two agree. -/
def noteReaches (k : Int) (n : Nat) : Bool :=
  n == 0 || decide (pow3072 ((2 * n - 1) * stepNumerator) * pow2 (-k).toNat ≤
    pow3072 twiceA4Steps * pow2 k.toNat)

/-- The largest `m < acc + 2 ^ bits` that `p` accepts, bit by bit from the top, where `p` accepts `acc`
and every number below one it accepts. -/
def searchBits (p : Nat → Bool) : Nat → Nat → Nat
  | 0, acc => acc
  | b + 1, acc => if p (acc + 2 ^ b) then searchBits p b (acc + 2 ^ b) else searchBits p b acc

/-- `W_full(N)`, the unreduced register word: "the largest natural `n`" of R118. It has at most 18 bits
(R119 d). -/
def wFull (n : RawNote) : Nat := searchBits (noteReaches (noteExponent n)) 18 0

/-- `NOTE2WORD(N) = trunc_16(W_full(N))` (R115, R116, D7: truncation, no clamp). -/
def noteToWord (n : RawNote) : FreqWord := BitVec.ofNat 16 (wFull n)

/-- `SCALE(value, inMax) = (value * 15) div inMax` (R120). Outside `1 ≤ inMax`, `value ≤ inMax` the rule
gives no value and nothing here calls it (U10). -/
def scale (value inMax : Nat) : Nat := value * 15 / inMax

/-- `SCALE4(vol)`, the one instance the hardware has: `inMax = 127` (R120, D25). -/
def scale4 (vol : Byte) : Nibble := BitVec.ofNat 4 (scale vol.toNat volMax)

/-- `VEL2GATE(velocity) = (velocity > 0)` (R121). -/
def velToGate (velocity : Byte) : Bool := decide (0 < velocity.toNat)

/-- `W[7:0]` (R53). -/
def freqLo (w : FreqWord) : Byte := w.extractLsb' 0 8

/-- `W[15:8]` (R53). -/
def freqHi (w : FreqWord) : Byte := w.extractLsb' 8 8

/-- `PW_LO(P) = P[7:0]` (R122, R54). -/
def pwLo (p : PulseWidth) : Byte := p.extractLsb' 0 8

/-- `PW_HI(P) = zext_8(P[11:8])` (R122, R54). -/
def pwHi (p : PulseWidth) : Byte := (p.extractLsb' 8 4).setWidth 8

/-- `AD(att, dec)`: attack in the high nibble (R123, R57). -/
def adByte (e : Adsr) : Byte := e.att ++ e.dec

/-- `SR(sus, rel)`: sustain in the high nibble (R123, R57). -/
def srByte (e : Adsr) : Byte := e.sus ++ e.rel

/-- `CTRL(wave, gate) = wave | zext_8(gate)` (R124, R55, R56). -/
def ctrlByte (wave : Byte) (gate : Bool) : Byte := wave ||| (BitVec.ofBool gate).setWidth 8

/-- `FILT(f0, f1, f2)`: voice `i`'s flag in bit `i` (R125, R58). -/
def filtByte (f0 f1 f2 : Bool) : Byte :=
  (BitVec.ofBool f2 ++ BitVec.ofBool f1 ++ BitVec.ofBool f0 : BitVec 3).setWidth 8

/-- `VOLBYTE(vol4) = zext_8(vol4)` (R126, R59). -/
def volByte (vol4 : Nibble) : Byte := vol4.setWidth 8

end Sys2Proof.Machine
end

