-- ==== Sys2Proof/Syntax.lean ====
section
/-! DEFINITION. The abstract command type of R81: one constructor for each row of spec/opcode_table.json. -/

namespace Sys2Proof

/-- "Waveform — one of a fixed enumerated set {Noise, Square, Saw, Triangle}" (R22, R81).
Combined waveforms are a reserved encoding (R88, U9), so no term stands for one. -/
inductive Waveform where
  | noise
  | square
  | saw
  | triangle
  deriving DecidableEq, Repr

/-- A command, with the operand types of R81 and R84. Operands are as wide as the command word carries
them: a value above its nominal range is a term of this type, decodes, and is rejected when the
command executes (R95). -/
inductive Instr where
  /-- `start()` (R141). -/
  | start
  /-- `setVolume(vol)` (R142). -/
  | setVolume (vol : Byte)
  /-- `setAdsr(voiceIdx, {att, dec, sus, rel})` (R143). -/
  | setAdsr (voice att dec sus rel : Byte)
  /-- `setWaveform(voiceIdx, waveform)` (R144). -/
  | setWaveform (voice : Byte) (wave : Waveform)
  /-- `setPulseWidth(voiceIdx, width)` (R145). -/
  | setPulseWidth (voice : Byte) (width : WidthOperand)
  /-- `setFilterEnabled(voiceIdx, enabled)` (R146). -/
  | setFilterEnabled (voice : Byte) (enabled : Bool)
  /-- `playNote(voiceIdx, note, velocity)`, the note as its raw Q8.8 value (R147, R92). -/
  | playNote (voice : Byte) (note : RawNote) (velocity : Byte)
  deriving DecidableEq, Repr

end Sys2Proof
end

