-- ==== Sys2Proof/Decode.lean ====
section
/-! DEFINITION. The command word (R82 to R95): fields, decoder, encoder. -/

namespace Sys2Proof

/-- The mask that carries a waveform, in the command word and in the control register (R7, R22, R88). -/
def Waveform.mask : Waveform → Byte
  | .noise => 0x80
  | .square => 0x40
  | .saw => 0x20
  | .triangle => 0x10

/-- `op`, bits 47:40 (R82). -/
def opField (w : CmdWord) : Byte := w.extractLsb' 40 8

/-- `voice`, bits 39:32 (R82). -/
def voiceField (w : CmdWord) : Byte := w.extractLsb' 32 8

/-- `payload`, bits 31:0 (R82). -/
def payloadField (w : CmdWord) : BitVec 32 := w.extractLsb' 0 32

/-- The command word from its three fields (R82). -/
def ofFields (op voice : Byte) (payload : BitVec 32) : CmdWord :=
  op.setWidth 48 <<< 40 ||| voice.setWidth 48 <<< 32 ||| payload.setWidth 48

/-- The word from its six bytes: byte 5 (first here) is the opcode, byte 0 (last) the least significant
(R82). -/
def ofBytes (b5 b4 b3 b2 b1 b0 : Byte) : CmdWord := b5 ++ b4 ++ b3 ++ b2 ++ b1 ++ b0

/-- Byte `i` of the word, byte 0 the least significant (R82). -/
def wordByte (w : CmdWord) (i : Nat) : Byte := w.extractLsb' (8 * i) 8

/-- Why a word is illegal (R94). All three are reported alike, as ERR_ILLEGAL (R176). -/
inductive DecodeError where
  /-- `op` is 0x00 or 0x08 to 0xFF (R83). -/
  | reservedOpcode
  /-- a bit that R93 requires to be 0 is 1. -/
  | nonzeroReservedBits
  /-- a `setWaveform` word whose mask byte is not one of the four (R88). -/
  | badWaveform
  deriving DecidableEq, Repr

/-- The waveform of a mask byte, if it is one of the four (R88). -/
def waveformOfMask (m : Byte) : Option Waveform :=
  if m = 0x80 then some .noise
  else if m = 0x40 then some .square
  else if m = 0x20 then some .saw
  else if m = 0x10 then some .triangle
  else none

/-- `i` if the bits that must be 0 are 0 (R93). -/
def mustBeZero (zero : Bool) (i : Instr) : Except DecodeError Instr :=
  if zero then .ok i else .error .nonzeroReservedBits

/-- `start`: `voice` and `payload` are 0 (R85). -/
def decodeStart (voice : Byte) (payload : BitVec 32) : Except DecodeError Instr :=
  mustBeZero (voice == 0 && payload == 0) .start

/-- `setVolume`: `voice` and `payload[31:8]` are 0 (R86). -/
def decodeSetVolume (voice : Byte) (payload : BitVec 32) : Except DecodeError Instr :=
  mustBeZero (voice == 0 && payload.extractLsb' 8 24 == 0) (.setVolume (payload.extractLsb' 0 8))

/-- `setAdsr`: no payload bit is unused (R87). -/
def decodeSetAdsr (voice : Byte) (payload : BitVec 32) : Except DecodeError Instr :=
  .ok (.setAdsr voice (payload.extractLsb' 24 8) (payload.extractLsb' 16 8)
    (payload.extractLsb' 8 8) (payload.extractLsb' 0 8))

/-- `setWaveform`: `payload[31:8]` is 0 and `payload[7:0]` is one of the four masks (R88). -/
def decodeSetWaveform (voice : Byte) (payload : BitVec 32) : Except DecodeError Instr :=
  match waveformOfMask (payload.extractLsb' 0 8) with
  | none => .error .badWaveform
  | some wf => mustBeZero (payload.extractLsb' 8 24 == 0) (.setWaveform voice wf)

/-- `setPulseWidth`: `payload[31:16]` is 0 (R89). -/
def decodeSetPulseWidth (voice : Byte) (payload : BitVec 32) : Except DecodeError Instr :=
  mustBeZero (payload.extractLsb' 16 16 == 0) (.setPulseWidth voice (payload.extractLsb' 0 16))

/-- `setFilterEnabled`: `payload[31:1]` is 0 (R90). -/
def decodeSetFilterEnabled (voice : Byte) (payload : BitVec 32) : Except DecodeError Instr :=
  mustBeZero (payload.extractLsb' 1 31 == 0) (.setFilterEnabled voice (payload.getLsbD 0))

/-- `playNote`: `payload[15:8]` is 0 (R91). -/
def decodePlayNote (voice : Byte) (payload : BitVec 32) : Except DecodeError Instr :=
  mustBeZero (payload.extractLsb' 8 8 == 0)
    (.playNote voice (payload.extractLsb' 16 16) (payload.extractLsb' 0 8))

/-- `decode : 48-bit word -> command or ILLEGAL`, total (R95). -/
def decode (w : CmdWord) : Except DecodeError Instr :=
  match (opField w).toNat with
  | 1 => decodeStart (voiceField w) (payloadField w)
  | 2 => decodeSetVolume (voiceField w) (payloadField w)
  | 3 => decodeSetAdsr (voiceField w) (payloadField w)
  | 4 => decodeSetWaveform (voiceField w) (payloadField w)
  | 5 => decodeSetPulseWidth (voiceField w) (payloadField w)
  | 6 => decodeSetFilterEnabled (voiceField w) (payloadField w)
  | 7 => decodePlayNote (voiceField w) (payloadField w)
  | _ => .error .reservedOpcode

/-- The decoder on a word carried as six bytes, byte 5 first (R82). -/
def decodeBytes (b5 b4 b3 b2 b1 b0 : Byte) : Except DecodeError Instr :=
  decode (ofBytes b5 b4 b3 b2 b1 b0)

/-- The decoder on a word numbered as spec/opcode_table.json numbers it: the table's number is the
command word itself, bit 0 the least significant; bits from `nbits` up are 0. -/
def decodeTableWord (nbits w : Nat) : Option Instr :=
  (decode (BitVec.ofNat 48 (w % 2 ^ nbits))).toOption

/-- The one legal word of a command (R85 to R91, R95). -/
def encode : Instr → CmdWord
  | .start => ofFields 0x01 0 0
  | .setVolume vol => ofFields 0x02 0 (vol.setWidth 32)
  | .setAdsr voice att dec sus rel =>
    ofFields 0x03 voice (att.setWidth 32 <<< 24 ||| dec.setWidth 32 <<< 16 |||
      sus.setWidth 32 <<< 8 ||| rel.setWidth 32)
  | .setWaveform voice wf => ofFields 0x04 voice (wf.mask.setWidth 32)
  | .setPulseWidth voice width => ofFields 0x05 voice (width.setWidth 32)
  | .setFilterEnabled voice enabled => ofFields 0x06 voice ((BitVec.ofBool enabled).setWidth 32)
  | .playNote voice note velocity =>
    ofFields 0x07 voice (note.setWidth 32 <<< 16 ||| velocity.setWidth 32)

end Sys2Proof
end

