-- ==== Sys2Proof/Machine/Flags.lean ====
section
/-! DEFINITION. The status state (R29, R30, R172): the codes, and what each completion does to `res` and
`err`. The block has no other flag or condition code. -/

namespace Sys2Proof.Machine

/-- The 3-bit code of R172. -/
def ResultCode.bits : ResultCode → ResBits
  | .ok => 0
  | .errVoice => 1
  | .errPw => 2
  | .errRange => 3
  | .errIllegal => 4

/-- `err` after a command that ends with code `c`: set by a rejection, otherwise as it was, so never
cleared (R30, R185). -/
def errAfter (c : ResultCode) (err : Bool) : Bool :=
  match c with
  | .ok => err
  | _ => true

/-- What the host can read between commands: the two status registers and nothing else (R29, R30). -/
def hostStatus (s : State) : ResBits × Bool := (s.res, s.err)

end Sys2Proof.Machine
end

