-- ==== Sys2Proof/Machine/Operands.lean ====
section
/-! DEFINITION. Operands: the precondition checks, each giving the checked operand or its rejection code
(R173 to R175), and the one addressing mode (R148). -/

namespace Sys2Proof.Machine

/-- ERR_VOICE when `voice > 2` (R173). -/
def checkVoice (voice : Byte) : Except ResultCode VoiceIdx :=
  if h : voice.toNat < 3 then .ok ⟨voice.toNat, h⟩ else .error .errVoice

/-- ERR_PW when `width > 4095`; otherwise `width[11:0]` (R174, R145). -/
def checkWidth (width : WidthOperand) : Except ResultCode PulseWidth :=
  if width.toNat ≤ widthMax then .ok (width.setWidth 12) else .error .errPw

/-- ERR_RANGE when `vol > 127` (R175). -/
def checkVolume (vol : Byte) : Except ResultCode Byte :=
  if vol.toNat ≤ volMax then .ok vol else .error .errRange

/-- ERR_RANGE when `velocity > 127` (R175). -/
def checkVelocity (velocity : Byte) : Except ResultCode Byte :=
  if velocity.toNat ≤ velMax then .ok velocity else .error .errRange

/-- ERR_RANGE when any of the four is above 15; otherwise their low nibbles (R175, R143). -/
def checkAdsr (att dec sus rel : Byte) : Except ResultCode Adsr :=
  if att.toNat ≤ nibbleMax ∧ dec.toNat ≤ nibbleMax ∧ sus.toNat ≤ nibbleMax ∧ rel.toNat ≤ nibbleMax then
    .ok ⟨att.setWidth 4, dec.setWidth 4, sus.setWidth 4, rel.setWidth 4⟩
  else .error .errRange

/-- The registers of a voice block (R51). -/
inductive VoiceReg where
  | freqLo
  | freqHi
  | pwLo
  | pwHi
  | control
  | ad
  | sr
  deriving DecidableEq, Repr

/-- Offset of a register in its voice block (R51, R148). -/
def regOffset : VoiceReg → Nat
  | .freqLo => 0
  | .freqHi => 1
  | .pwLo => 2
  | .pwHi => 3
  | .control => 4
  | .ad => 5
  | .sr => 6

/-- `trunc_8(7 * v + offset)` (R51, R148). -/
def voiceAddr (v : VoiceIdx) (r : VoiceReg) : Addr :=
  BitVec.ofNat 8 (voiceStride * v.val + regOffset r)

end Sys2Proof.Machine
end

