-- ==== Sys2Proof/Machine/Ops.lean ====
section
/-! DEFINITION. The shared operations over registers, chip, bus, status and host port. -/

namespace Sys2Proof.Machine

/-! Voice records (R11, R21). -/

/-- The record `V[v]`. -/
def Voices.get (vs : Voices) (v : VoiceIdx) : Voice :=
  match v with
  | 0 => vs.v0
  | 1 => vs.v1
  | 2 => vs.v2

/-- The records with `V[v]` replaced. -/
def Voices.set (vs : Voices) (v : VoiceIdx) (x : Voice) : Voices :=
  match v with
  | 0 => { vs with v0 := x }
  | 1 => { vs with v1 := x }
  | 2 => { vs with v2 := x }

/-- Reads `V[v]` (R11). -/
def State.voice (s : State) (v : VoiceIdx) : Voice := s.voices.get v

/-- Writes `V[v]` (R11). -/
def setVoice (v : VoiceIdx) (x : Voice) (s : State) : State :=
  { s with voices := s.voices.set v x }

/-- Writes `vol4` (R27). -/
def setVol4 (n : Nibble) (s : State) : State := { s with vol4 := n }

/-! The ghost chip (R33). -/

/-- The byte listed at an address, if any. -/
def Memory.read : Memory → Nat → Option Byte
  | [], _ => none
  | (b, d) :: m, a => if a = b then some d else Memory.read m a

/-- The listing with `d` at `a`, in canonical form. -/
def Memory.write : Memory → Nat → Byte → Memory
  | [], a, d => [(a, d)]
  | (b, e) :: m, a, d =>
    if a < b then (a, d) :: (b, e) :: m
    else if a = b then (a, d) :: m
    else (b, e) :: Memory.write m a d

/-- The canonical form: addresses strictly rising, each in the 8-bit address space (R50). -/
def Memory.wf : Memory → Bool
  | [] => true
  | [(a, _)] => decide (a < 256)
  | (a, _) :: (b, e) :: m => decide (a < b) && Memory.wf ((b, e) :: m)

/-- `chip[a]`: `none` is `unknown`. -/
def Chip.read (c : Chip) (a : Nat) : Option Byte := c.bind fun m => m.read a

/-- `chip` after `Write(a, d)`: the byte becomes known, unless no `Reset` has come before (U13). -/
def Chip.write (c : Chip) (a : Nat) (d : Byte) : Chip := c.map fun m => m.write a d

/-- The canonical form of what the ghost chip lists. -/
def Chip.wf (c : Chip) : Bool := c.all Memory.wf

/-- What one bus event makes known of the chip: a `Reset`, that nothing is known (R33); a write after it,
its byte (U13). -/
def chipAfter : BusEvent → Chip → Chip
  | .startClock, c => c
  | .reset, _ => some []
  | .write a d, c => c.write a.toNat d

/-- The ghost chip "defined from the bus trace alone" (R33). -/
def chipOfTrace (t : List BusEvent) : Chip := t.foldl (fun c e => chipAfter e c) none

/-! The Register Bus (R11, R182). Every event goes out by `emit`: appended to the trace (R65). -/

/-- Appends one event to the bus trace, and tells the ghost chip. -/
def emit (e : BusEvent) (s : State) : State :=
  { s with trace := s.trace ++ [e], chip := chipAfter e s.chip }

/-- `BusStartClock()`. -/
def busStartClock (s : State) : State := emit .startClock s

/-- `BusReset()`. -/
def busReset (s : State) : State := emit .reset s

/-- `BusWrite(addr, data)`. -/
def busWrite (addr : Addr) (data : Byte) (s : State) : State := emit (.write addr data) s

/-! Register writes. A composite register is rebuilt whole from the shadow (R67). -/

/-- Writes FREQ_LO, then FREQ_HI (R53, R60). -/
def writeFrequency (v : VoiceIdx) (w : FreqWord) (s : State) : State :=
  busWrite (voiceAddr v .freqHi) (freqHi w) (busWrite (voiceAddr v .freqLo) (freqLo w) s)

/-- Writes PW_LO, then PW_HI, from `V[v].pw` (R54, R60). -/
def writePulseWidth (v : VoiceIdx) (s : State) : State :=
  busWrite (voiceAddr v .pwHi) (pwHi (s.voice v).pw)
    (busWrite (voiceAddr v .pwLo) (pwLo (s.voice v).pw) s)

/-- Writes AD, then SR, from `V[v]` (R57). -/
def writeEnvelope (v : VoiceIdx) (s : State) : State :=
  busWrite (voiceAddr v .sr) (srByte (s.voice v).adsr)
    (busWrite (voiceAddr v .ad) (adByte (s.voice v).adsr) s)

/-- Writes CONTROL as `V[v].wave | zext_8(V[v].gate)` (R55, R67). -/
def writeControl (v : VoiceIdx) (s : State) : State :=
  busWrite (voiceAddr v .control) (ctrlByte (s.voice v).wave (s.voice v).gate) s

/-- Writes FILTER from all three flags (R58, R67). -/
def writeFilter (s : State) : State :=
  busWrite s.params.addrFilter
    (filtByte (s.voice 0).filt (s.voice 1).filt (s.voice 2).filt) s

/-- Writes VOLUME from `vol4` (R59). -/
def writeVolume (s : State) : State := busWrite s.params.addrVolume (volByte s.vol4) s

/-! Ending a command (R140). -/

/-- A command ends with code `c`: `res <- c`, and `err` as R30 says. -/
def finish (c : ResultCode) (s : State) : State :=
  { s with res := c.bits, err := errAfter c s.err }

/-- `done` (R11): `res <- OK`. -/
def done (s : State) : State := finish .ok s

/-- `reject <Code>` (R171), the block's one exception: `res <- Code`, `err <- 1`, nothing else. Control
goes nowhere and nothing is saved (R178), so there is no return from it (R180). -/
def reject (c : ResultCode) (s : State) : State := finish c s

/-- Phase 2 of R140: a failed check rejects the command in the state as it was; a passed one lets it go
on with the checked operand. -/
def checked {α : Type} (c : Except ResultCode α) (s : State)
    (go : α → Host.Outcome State Fault Refusal) : Host.Outcome State Fault Refusal :=
  match c with
  | .error e => .next (reject e s)
  | .ok a => go a

/-! The command port (R80) and the host behind it (R31). -/

/-- The word the host presents now, if any. -/
def presented (s : State) : Option CmdWord := s.host.pending.head?

/-- The host's side after its word is taken: its index advances by one, whether the command will be
accepted or rejected (R31, D17). -/
def takeWord (s : State) : State :=
  { s with host := ⟨s.host.pending.tail, s.host.index + 1⟩ }

/-- An illegal word: rejected with ERR_ILLEGAL (R94, R176). -/
def rejectIllegal (s : State) : Host.Outcome State Fault Refusal := .next (reject .errIllegal s)

/-- No word is presented: the block is "idle awaiting one" (R184, R203). DESIGN CHOICE (log 5): such a
step changes nothing. UNSAFE only for a claim that counts steps. -/
def idle (s : State) : Host.Outcome State Fault Refusal := .next s

/-- The state with `w` as the very next word the host presents, in place of the one it would have. -/
def presentNext (w : CmdWord) (s : State) : State :=
  { s with host := { s.host with pending := w :: s.host.pending.tail } }

/-- Block reset as an event from outside (R200, D21): every state element at its reset value, the trace
empty and no event emitted (R201), the parameters as they are; the host keeps its list. Not a step
(log 13). -/
def blockReset (s : State) : State := { State.resetWith s.params with host := s.host }

end Sys2Proof.Machine
end

