-- ==== Sys2Proof/Machine/DeviceCommands.lean ====
section
/-! DEFINITION. The commands that act on the chip as a whole: `start` and `setVolume`. -/

namespace Sys2Proof.Machine

/-- `start()` (R141): StartClock, then Reset; no shadow field is read or written (D16). -/
def execStart (s : State) : Host.Outcome State Fault Refusal :=
  .next (done (busReset (busStartClock s)))

/-- `setVolume(vol)` (R142). -/
def execSetVolume (vol : Byte) (s : State) : Host.Outcome State Fault Refusal :=
  checked (checkVolume vol) s fun vol =>
    .next (done (writeVolume (setVol4 (scale4 vol) s)))

end Sys2Proof.Machine
end

