-- ==== Sys2Proof/Machine/VoiceCommands.lean ====
section
/-! DEFINITION. The commands that act on one voice. Each checks the voice first (R177), updates the
shadow, then emits from the updated shadow (R140). -/

namespace Sys2Proof.Machine

/-- `setAdsr(voiceIdx, {att, dec, sus, rel})` (R143). -/
def execSetAdsr (voice att dec sus rel : Byte) (s : State) : Host.Outcome State Fault Refusal :=
  checked (checkVoice voice) s fun v =>
    checked (checkAdsr att dec sus rel) s fun e =>
      .next (done (writeEnvelope v (setVoice v { s.voice v with adsr := e } s)))

/-- `setWaveform(voiceIdx, waveform)` (R144). The gate is read, not changed. -/
def execSetWaveform (voice : Byte) (wave : Waveform) (s : State) : Host.Outcome State Fault Refusal :=
  checked (checkVoice voice) s fun v =>
    .next (done (writeControl v (setVoice v { s.voice v with wave := wave.mask } s)))

/-- `setPulseWidth(voiceIdx, width)` (R145). -/
def execSetPulseWidth (voice : Byte) (width : WidthOperand) (s : State) :
    Host.Outcome State Fault Refusal :=
  checked (checkVoice voice) s fun v =>
    checked (checkWidth width) s fun p =>
      .next (done (writePulseWidth v (setVoice v { s.voice v with pw := p } s)))

/-- `setFilterEnabled(voiceIdx, enabled)` (R146). -/
def execSetFilterEnabled (voice : Byte) (enabled : Bool) (s : State) :
    Host.Outcome State Fault Refusal :=
  checked (checkVoice voice) s fun v =>
    .next (done (writeFilter (setVoice v { s.voice v with filt := enabled } s)))

/-- `playNote(voiceIdx, note, velocity)` (R147): the frequency is rewritten whatever the velocity, note-off
included (R150), and the control byte is last. -/
def execPlayNote (voice : Byte) (note : RawNote) (velocity : Byte) (s : State) :
    Host.Outcome State Fault Refusal :=
  checked (checkVoice voice) s fun v =>
    checked (checkVelocity velocity) s fun vel =>
      .next (done (writeControl v (writeFrequency v (noteToWord note)
        (setVoice v { s.voice v with gate := velToGate vel } s))))

end Sys2Proof.Machine
end

