-- ==== Sys2Proof/Machine/Dispatch.lean ====
section
/-! DEFINITION. One arm for each command, each a direct call of its meaning. -/

namespace Sys2Proof.Machine

def exec (i : Instr) (s : State) : Host.Outcome State Fault Refusal :=
  match i with
  | .start => Sys2Proof.Machine.execStart s
  | .setVolume vol => Sys2Proof.Machine.execSetVolume vol s
  | .setAdsr voice att dec sus rel => Sys2Proof.Machine.execSetAdsr voice att dec sus rel s
  | .setWaveform voice wave => Sys2Proof.Machine.execSetWaveform voice wave s
  | .setPulseWidth voice width => Sys2Proof.Machine.execSetPulseWidth voice width s
  | .setFilterEnabled voice enabled => Sys2Proof.Machine.execSetFilterEnabled voice enabled s
  | .playNote voice note velocity => Sys2Proof.Machine.execPlayNote voice note velocity s

end Sys2Proof.Machine
end

