-- ==== Sys2Proof/Machine/Step.lean ====
section
/-! DEFINITION. One step: the block takes the word the host presents, decodes it and executes it to
completion (R80, R140). -/

namespace Sys2Proof.Machine

/-- One command is one atomic step (R13, R31, D24). -/
def step (s : State) : Host.Outcome State Fault Refusal :=
  match presented s with
  | none => idle s
  | some w =>
    match decode w with
    | .error _ => rejectIllegal (takeWord s)
    | .ok i => exec i (takeWord s)

/-- `s` with the word `w` (its bits from `nbits` up taken as 0) as the next one the host presents. It
stands for the host's loading of a program (log 6). -/
def State.withFetchWord (s : State) (nbits w : Nat) : State :=
  presentNext (BitVec.ofNat 48 (w % 2 ^ nbits)) s

end Sys2Proof.Machine
end

