-- ==== Sys2Proof/Machine/Assembler.lean ====
section
/-! DEFINITION. The assembler (R96): from a program's text to its command words. Text is a list of
characters. Not a part of the hardware; the machine does not call it. -/

namespace Sys2Proof.Asm

/-- Why a text is refused. -/
inductive AsmError where
  /-- not the syntax of R96. -/
  | badSyntax
  /-- an integer that its operand field of R81 cannot carry. -/
  | outOfField
  /-- a note that is no multiple of 1/256, or is outside [-128, 127.99609375]. -/
  | badNote
  deriving DecidableEq, Repr

/-- A token: a run of letters, digits, `.` and `-`; one of the six punctuation marks; or a separator of
commands. -/
inductive Token where
  | atom (text : List Char)
  | mark (c : Char)
  | sep
  deriving DecidableEq, Repr

/-- The opening brace of an ADSR operand. -/
def openBrace : Char := Char.ofNat 123

/-- Its closing brace. -/
def closeBrace : Char := Char.ofNat 125

/-- The atom read so far, if any, as a token. -/
def flushAtom (cur : List Char) : List Token :=
  if cur.isEmpty then [] else [.atom cur.reverse]

/-- The tokens of a text, `cur` being the atom read so far, reversed. Commands are "separated by `;` or
newlines"; blanks separate atoms. -/
def tokens : List Char → List Char → Except AsmError (List Token)
  | [], cur => .ok (flushAtom cur)
  | c :: cs, cur =>
    if c.isAlphanum || c == '.' || c == '-' then tokens cs (c :: cur)
    else if c == ' ' || c == '\t' then return flushAtom cur ++ (← tokens cs [])
    else if c == ';' || c == '\n' then return flushAtom cur ++ .sep :: (← tokens cs [])
    else if c == '(' || c == ')' || c == ',' || c == ':' || c == openBrace || c == closeBrace then
      return flushAtom cur ++ .mark c :: (← tokens cs [])
    else .error .badSyntax

/-- The value of a digit in base `base`. DESIGN CHOICE (log 18): a hexadecimal digit in either case. -/
def digitValue (base : Nat) (c : Char) : Option Nat :=
  let d :=
    if c.isDigit then some (c.toNat - 48)
    else if 97 ≤ c.toNat ∧ c.toNat ≤ 102 then some (c.toNat - 87)
    else if 65 ≤ c.toNat ∧ c.toNat ≤ 70 then some (c.toNat - 55)
    else none
  match d with
  | some d => if d < base then some d else none
  | none => none

/-- The natural number of a run of digits, on top of `acc`. -/
def digitsFrom (base : Nat) : List Char → Nat → Option Nat
  | [], acc => some acc
  | c :: cs, acc =>
    match digitValue base c with
    | some d => digitsFrom base cs (acc * base + d)
    | none => none

/-- A non-empty run of digits. -/
def digits (base : Nat) (cs : List Char) : Option Nat :=
  if cs.isEmpty then none else digitsFrom base cs 0

/-- "Integer operands are decimal or `0x` hexadecimal." DESIGN CHOICE (log 18): leading zeros are taken, and a
sign is refused. -/
def natural : List Char → Option Nat
  | '0' :: 'x' :: cs => digits 16 cs
  | cs => digits 10 cs

/-- An integer operand for a field of `w` bits. -/
def field (w : Nat) (cs : List Char) : Except AsmError (BitVec w) :=
  match natural cs with
  | none => .error .badSyntax
  | some n => if n < 2 ^ w then .ok (BitVec.ofNat w n) else .error .outOfField

/-- The raw note of `m / 10 ^ f`: `N = note * 256` if that is an integer in range. -/
def rawNote (m : Int) (f : Nat) : Except AsmError RawNote :=
  if (m * 256) % (10 ^ f : Nat) = 0 ∧ -32768 ≤ (m * 256) / (10 ^ f : Nat) ∧
      (m * 256) / (10 ^ f : Nat) ≤ 32767 then
    .ok (BitVec.ofInt 16 ((m * 256) / (10 ^ f : Nat)))
  else .error .badNote

/-- A decimal number without sign: its digits as one natural number, and how many follow the point.
DESIGN CHOICE (log 18): with a point, at least one digit must stand on each side of it, so `.5` and `57.` are
refused. R96 says only "possibly with a fraction". SAFE: the machine never calls the assembler. -/
def decimal (cs : List Char) : Option (Nat × Nat) :=
  match cs.span (· != '.') with
  | (whole, []) => (digits 10 whole).map (·, 0)
  | (whole, _ :: frac) =>
    match digits 10 whole, digits 10 frac with
    | some _, some _ => (digits 10 (whole ++ frac)).map (·, frac.length)
    | _, _ => none

/-- A note operand: "a decimal number, possibly negative and possibly with a fraction". DESIGN CHOICE
(log 18): the minus stands at the first digit, and a plus sign or an exponent is refused. -/
def note (cs : List Char) : Except AsmError RawNote :=
  match cs with
  | '-' :: cs =>
    match decimal cs with
    | some (m, f) => rawNote (-m) f
    | none => .error .badSyntax
  | cs =>
    match decimal cs with
    | some (m, f) => rawNote m f
    | none => .error .badSyntax

/-- A waveform operand. -/
def waveform (cs : List Char) : Except AsmError Waveform :=
  if cs = ['N', 'o', 'i', 's', 'e'] then .ok .noise
  else if cs = ['S', 'q', 'u', 'a', 'r', 'e'] then .ok .square
  else if cs = ['S', 'a', 'w'] then .ok .saw
  else if cs = ['T', 'r', 'i', 'a', 'n', 'g', 'l', 'e'] then .ok .triangle
  else .error .badSyntax

/-- A Boolean operand. -/
def boolean (cs : List Char) : Except AsmError Bool :=
  if cs = ['t', 'r', 'u', 'e'] then .ok true
  else if cs = ['f', 'a', 'l', 's', 'e'] then .ok false
  else .error .badSyntax

/-- An operand as the text gives it: a plain one, or the record of the four ADSR fields, by name and in
the order of R96. -/
inductive Arg where
  | plain (text : List Char)
  | adsr (att dec sus rel : List Char)
  deriving DecidableEq, Repr

/-- Puts one more operand in front of those that follow. -/
def consArg (a : Arg) : Option (List Arg) → Option (List Arg)
  | some as => some (a :: as)
  | none => none

/-- The ADSR record in braces, if the field names and marks stand as R96 has them. -/
def adsrArg (ob a c0 d c1 s c2 r : Token) (cb : Token) (att dec sus rel : List Char) : Option Arg :=
  if [ob, a, c0, d, c1, s, c2, r, cb] =
      [.mark openBrace, .atom ['a', 't', 't'], .mark ',', .atom ['d', 'e', 'c'], .mark ',',
        .atom ['s', 'u', 's'], .mark ',', .atom ['r', 'e', 'l'], .mark closeBrace] then
    some (.adsr att dec sus rel)
  else none

/-- The operands between the parentheses: separated by commas, with the closing parenthesis last. -/
def args : List Token → Option (List Arg)
  | [.atom a, .mark ')'] => some [.plain a]
  | .atom a :: .mark ',' :: rest => consArg (.plain a) (args rest)
  | [ob, a, .mark ':', .atom att, c0, d, .mark ':', .atom dec, c1, s, .mark ':', .atom sus, c2, r,
      .mark ':', .atom rel, cb, .mark ')'] =>
    (adsrArg ob a c0 d c1 s c2 r cb att dec sus rel).map ([·])
  | _ => none

/-- The command of a mnemonic and its operands (the table of R96). -/
def command (name : String) (as : List Arg) : Except AsmError Instr :=
  match name, as with
  | "start", [] => .ok .start
  | "setVolume", [.plain vol] => return .setVolume (← field 8 vol)
  | "setAdsr", [.plain v, .adsr att dec sus rel] =>
    return .setAdsr (← field 8 v) (← field 8 att) (← field 8 dec) (← field 8 sus) (← field 8 rel)
  | "setWaveform", [.plain v, .plain wf] => return .setWaveform (← field 8 v) (← waveform wf)
  | "setPulseWidth", [.plain v, .plain width] =>
    return .setPulseWidth (← field 8 v) (← field 16 width)
  | "setFilterEnabled", [.plain v, .plain b] => return .setFilterEnabled (← field 8 v) (← boolean b)
  | "playNote", [.plain v, .plain n, .plain vel] =>
    return .playNote (← field 8 v) (← note n) (← field 8 vel)
  | _, _ => .error .badSyntax

/-- One command's tokens. -/
def parseCommand : List Token → Except AsmError Instr
  | [.atom name, .mark '(', .mark ')'] => command (String.ofList name) []
  | .atom name :: .mark '(' :: rest =>
    match args rest with
    | some as => command (String.ofList name) as
    | none => .error .badSyntax
  | _ => .error .badSyntax

/-- The tokens of each command: cut at the separators. -/
def splitCommands : List Token → List (List Token)
  | [] => [[]]
  | .sep :: ts => [] :: splitCommands ts
  | t :: ts =>
    match splitCommands ts with
    | [] => [[t]]
    | c :: cs => (t :: c) :: cs

/-- The words of a list of commands, in order. DEDUCED (log 14): a blank line or an empty place between
separators is no command. -/
def assembleCommands : List (List Token) → Except AsmError (List CmdWord)
  | [] => .ok []
  | [] :: cs => assembleCommands cs
  | c :: cs => return encode (← parseCommand c) :: (← assembleCommands cs)

/-- A program's text to its command words (R96). -/
def assemble (text : List Char) : Except AsmError (List CmdWord) :=
  match tokens text [] with
  | .error e => .error e
  | .ok ts => assembleCommands (splitCommands ts)

end Sys2Proof.Asm
end

