-- ==== Sys2Proof/Machine/RealConverter.lean ====
section
/-! DEFINITION. The converter's functions as the source writes them, over the real numbers (R12, R111 to
R116). The machine does not run these; statements say that the integer functions of Converter.lean
compute them. -/

namespace Sys2Proof.Machine

/-- `NOTE2HZ(note) = 440.0 * 2^((note - 69) / 12)` (R111). -/
noncomputable def noteToHz (note : ℝ) : ℝ := 440 * (2 : ℝ) ^ ((note - 69) / 12)

/-- `STEPS(hz) = hz / 0.0596`, the literal taken as the exact decimal 596/10000 (R112, D6). -/
noncomputable def hzSteps (hz : ℝ) : ℝ := hz / (596 / 10000)

/-- `ROUND(r) = floor(r + 1/2)` for `r >= 0` (R113). -/
noncomputable def roundHalfUp (r : ℝ) : Nat := ⌊r + 1 / 2⌋₊

/-- `W_full(hz) = ROUND(STEPS(hz))` (R114). -/
noncomputable def hzFull (hz : ℝ) : Nat := roundHalfUp (hzSteps hz)

/-- `HZ2WORD(hz) = trunc_16(W_full(hz))` (R115). -/
noncomputable def hzToWord (hz : ℝ) : FreqWord := BitVec.ofNat 16 (hzFull hz)

/-- The note a raw operand denotes, `signed(N) / 256` (R92). -/
noncomputable def noteOfRaw (n : RawNote) : ℝ := (n.toInt : ℝ) / 256

/-- `x(N) = (1100000 / 149) * 2^(k / 3072)` (R116). -/
noncomputable def noteSteps (n : RawNote) : ℝ :=
  (1100000 / 149) * (2 : ℝ) ^ (((n.toInt - 17664 : ℤ) : ℝ) / 3072)

end Sys2Proof.Machine
end

