-- ==== Sys2Proof/WellFormed.lean ====
section
/-! DEFINITION. What is well formed: a command word (R93, R94, as the opcode table lists it) and a choice
of the OPEN parameters (R8). A term of `Instr` needs no check: its operand types are those of R81, and
R95 gives every command of R81 exactly one legal word. -/

namespace Sys2Proof

/-- One row of spec/opcode_table.json: a word is of the row when its bits under `mask` are `value` and,
where the row constrains the waveform byte, bits 7:0 are one of `lowByte`. -/
structure OpRow where
  mnemonic : String
  mask : CmdWord
  value : CmdWord
  lowByte : Option (List Byte)
  deriving DecidableEq, Repr

/-- spec/opcode_table.json, row by row (its `mask` and `match` columns and the constraint of
`setWaveform`). -/
def opcodeTable : List OpRow :=
  [ ⟨"start",            0xFFFFFFFFFFFF, 0x010000000000, none⟩,
    ⟨"setVolume",        0xFFFFFFFFFF00, 0x020000000000, none⟩,
    ⟨"setAdsr",          0xFF0000000000, 0x030000000000, none⟩,
    ⟨"setWaveform",      0xFF00FFFFFF00, 0x040000000000, some [0x80, 0x40, 0x20, 0x10]⟩,
    ⟨"setPulseWidth",    0xFF00FFFF0000, 0x050000000000, none⟩,
    ⟨"setFilterEnabled", 0xFF00FFFFFFFE, 0x060000000000, none⟩,
    ⟨"playNote",         0xFF000000FF00, 0x070000000000, none⟩ ]

/-- The mnemonic of a command, as spec/opcode_table.json names its row. -/
def mnemonicOf : Instr → String
  | .start => "start"
  | .setVolume _ => "setVolume"
  | .setAdsr _ _ _ _ _ => "setAdsr"
  | .setWaveform _ _ => "setWaveform"
  | .setPulseWidth _ _ => "setPulseWidth"
  | .setFilterEnabled _ _ => "setFilterEnabled"
  | .playNote _ _ _ => "playNote"

/-- The word is one of the row's. -/
def rowMatches (r : OpRow) (w : CmdWord) : Bool :=
  w &&& r.mask == r.value &&
    match r.lowByte with
    | none => true
    | some bytes => bytes.contains (w.extractLsb' 0 8)

/-- A legal command word (R94): it is one of some row's. -/
def wordLegal (w : CmdWord) : Bool := opcodeTable.any fun r => rowMatches r w

/-- The constraints of R8 on the OPEN parameters: both global registers lie outside the voice blocks
(addresses 0 to 20) and differ, and RESET_WAVE is one of the five masks. -/
abbrev Params.Admissible (p : Params) : Prop :=
  21 ≤ p.addrFilter.toNat ∧ 21 ≤ p.addrVolume.toNat ∧ p.addrFilter ≠ p.addrVolume ∧
    p.resetWave ∈ [0x00#8, 0x10#8, 0x20#8, 0x40#8, 0x80#8]

end Sys2Proof
end

