-- ==== Sys2Proof/Safety.lean ====
section
/-! DEFINITION. The terms in which claims speak: acceptance of a command, a run without rejection, the
agreement of shadow and chip, and the invariant of every state a run reaches. -/

namespace Sys2Proof.Machine

/-- The code of the first failing check of a decoded command, `ok` if none fails: the conditions of R173
to R175 in the order of R177. -/
def firstFailure : Instr → ResultCode
  | .start => .ok
  | .setVolume vol => if 127 < vol.toNat then .errRange else .ok
  | .setAdsr voice att dec sus rel =>
    if 2 < voice.toNat then .errVoice
    else if 15 < att.toNat ∨ 15 < dec.toNat ∨ 15 < sus.toNat ∨ 15 < rel.toNat then .errRange
    else .ok
  | .setWaveform voice _ => if 2 < voice.toNat then .errVoice else .ok
  | .setPulseWidth voice width =>
    if 2 < voice.toNat then .errVoice else if 4095 < width.toNat then .errPw else .ok
  | .setFilterEnabled voice _ => if 2 < voice.toNat then .errVoice else .ok
  | .playNote voice _ velocity =>
    if 2 < voice.toNat then .errVoice else if 127 < velocity.toNat then .errRange else .ok

/-- How many bus events an accepted command emits (R151). -/
def eventCount : Instr → Nat
  | .start => 2
  | .setVolume _ => 1
  | .setAdsr _ _ _ _ _ => 2
  | .setWaveform _ _ => 1
  | .setPulseWidth _ _ => 2
  | .setFilterEnabled _ _ => 1
  | .playNote _ _ _ => 3

/-- The chip addresses an accepted command stores to (R52, R151). `start` stores to none: it resets the
chip. -/
def storedAddresses (p : Params) : Instr → List Nat
  | .start => []
  | .setVolume _ => [p.addrVolume.toNat]
  | .setAdsr voice _ _ _ _ => [7 * voice.toNat + 5, 7 * voice.toNat + 6]
  | .setWaveform voice _ => [7 * voice.toNat + 4]
  | .setPulseWidth voice _ => [7 * voice.toNat + 2, 7 * voice.toNat + 3]
  | .setFilterEnabled _ _ => [p.addrFilter.toNat]
  | .playNote voice _ _ => [7 * voice.toNat, 7 * voice.toNat + 1, 7 * voice.toNat + 4]

/-- The events a step or command from `s` to `s'` has put on the bus. -/
def emitted (s s' : State) : List BusEvent := s'.trace.drop s.trace.length

/-- The two states agree on all that a command may read: parameters, waveforms, gates and filter flags
(R37). -/
def sameReadState (s t : State) : Prop :=
  s.params = t.params ∧ ∀ v, (s.voice v).wave = (t.voice v).wave ∧
    (s.voice v).gate = (t.voice v).gate ∧ (s.voice v).filt = (t.voice v).filt

/-- No command since block reset was rejected: the premise R185 gives a claim about a clean run. -/
def rejectionFree (s : State) : Bool := !s.err

/-- The trace begins with StartClock, Reset: the premise of a cautious claim about the chip (U13), step 2 of
the boot order of R204. -/
def beginsWithStart (t : List BusEvent) : Bool := [.startClock, .reset].isPrefixOf t

/-- The shadow invariant of R34, register by register: what the chip is known to hold is what the shadow
says. It speaks of writes by this block alone (R35, R183; log 10). -/
structure ShadowConsistent (s : State) : Prop where
  control : ∀ v d, s.chip.read (7 * v.val + 4) = some d →
    d = (s.voice v).wave ||| (BitVec.ofBool (s.voice v).gate).setWidth 8
  envelope : ∀ v d, s.chip.read (7 * v.val + 5) = some d →
    d = (s.voice v).adsr.att ++ (s.voice v).adsr.dec ∧
      s.chip.read (7 * v.val + 6) = some ((s.voice v).adsr.sus ++ (s.voice v).adsr.rel)
  pulseWidth : ∀ v d, s.chip.read (7 * v.val + 2) = some d →
    d = (s.voice v).pw.extractLsb' 0 8 ∧
      s.chip.read (7 * v.val + 3) = some (((s.voice v).pw.extractLsb' 8 4).setWidth 8)
  filter : ∀ d, s.chip.read s.params.addrFilter.toNat = some d →
    d = (BitVec.ofBool (s.voice 2).filt ++ BitVec.ofBool (s.voice 1).filt ++
      BitVec.ofBool (s.voice 0).filt : BitVec 3).setWidth 8
  volume : ∀ d, s.chip.read s.params.addrVolume.toNat = some d → d = s.vol4.setWidth 8
  others : ∀ a, 20 < a → a ≠ s.params.addrFilter.toNat → a ≠ s.params.addrVolume.toNat →
    s.chip.read a = none

/-- The waveform field holds one of the four masks or RESET_WAVE (R21, R22). -/
def waveLegal (p : Params) (x : Voice) : Prop :=
  x.wave = p.resetWave ∨ ∃ w : Waveform, x.wave = w.mask

/-- What every state reached from block reset with admissible parameters satisfies. -/
structure Inv (s : State) : Prop where
  params : s.params.Admissible
  shadow : ShadowConsistent s
  ghost : s.chip = chipOfTrace s.trace
  chipForm : s.chip.wf = true
  waves : ∀ v, waveLegal s.params (s.voice v)
  codes : s.res.toNat ≤ 4
  clean : s.err = false → s.res = 0

end Sys2Proof.Machine
end

