-- ==== Sys2Proof/Certificates/Slice0/Obligations.lean ====
section
/-! DEFINITION. The statements about the machine, for the provers. Addresses, data bytes and codes are
written out as the rules give them, not through the functions the meanings call. -/

open Sys2Proof Sys2Proof.Machine

/-! ## Reset -/

/-- R36, its table row by row, for every choice of the OPEN parameters. -/
def Obligations.ResetLeavesTheTableOfR36 : Prop :=
  ∀ p : Params,
    (∀ v, ((State.resetWith p).voice v).gate = false ∧ ((State.resetWith p).voice v).filt = false ∧
      ((State.resetWith p).voice v).wave = p.resetWave ∧
      ((State.resetWith p).voice v).adsr = ⟨0, 0, 0, 0⟩ ∧ ((State.resetWith p).voice v).pw = 0) ∧
    (State.resetWith p).vol4 = 0 ∧ (State.resetWith p).res = 0 ∧ (State.resetWith p).err = false ∧
    (State.resetWith p).trace = [] ∧ ∀ a, (State.resetWith p).chip.read a = none

/-- That reset takes the defaults of R8 is the model's choice (log 2); the spec marks the two addresses
"from general knowledge, not in source". -/
def Obligations.ResetTakesTheDefaultParameters : Prop :=
  State.reset = State.resetWith ⟨0x17, 0x18, 0x00⟩ ∧ Params.Admissible ⟨0x17, 0x18, 0x00⟩

/-- R200, R201, R202: block reset from any state puts every state element at its reset value, keeps the
parameters, and emits no bus event. That the host's list stays is the model's choice (log 13). -/
def Obligations.BlockResetFromAnyState : Prop :=
  ∀ s : State, ∃ x : Voice, x = ⟨s.params.resetWave, false, ⟨0, 0, 0, 0⟩, 0, false⟩ ∧
    blockReset s = { s with voices := ⟨x, x, x⟩, vol4 := 0, res := 0, err := false,
                            trace := [], chip := none }

/-! ## Encoding -/

/-- R95, R85 to R91: every command, with every operand value, decodes from its word. -/
def Obligations.DecodeOfEncodeIsTheCommand : Prop := ∀ i : Instr, decode (encode i) = .ok i

/-- R95: a word that decodes is the one legal word of the command it decodes to. -/
def Obligations.EncodeOfDecodeIsTheWord : Prop :=
  ∀ (w : CmdWord) (i : Instr), decode w = .ok i → encode i = w

/-- R94 against spec/opcode_table.json: a word decodes exactly when it is a word of one of the table's
seven rows, and then that row, and no other, bears the mnemonic of its command. -/
def Obligations.DecodeAcceptsExactlyTheTableRows : Prop :=
  ∀ w : CmdWord, ((∃ i, decode w = .ok i) ↔ wordLegal w = true) ∧
    ∀ i, decode w = .ok i → (∃ r ∈ opcodeTable, rowMatches r w = true) ∧
      ∀ r ∈ opcodeTable, rowMatches r w = true ↔ r.mnemonic = mnemonicOf i

/-- R94, in its own words: a word is illegal when `op` is reserved, when a bit that R93 requires to be 0
is 1, or when the mask byte of `setWaveform` is not one of the four. -/
def Obligations.IllegalWordsAreThoseOfR94 : Prop :=
  ∀ w : CmdWord, (∃ e, decode w = .error e) ↔
    let op := (w.extractLsb' 40 8).toNat
    let voice := w.extractLsb' 32 8
    let payload := w.extractLsb' 0 32
    op = 0 ∨ 8 ≤ op ∨ (op = 1 ∧ (voice ≠ 0 ∨ payload ≠ 0)) ∨
    (op = 2 ∧ (voice ≠ 0 ∨ payload.extractLsb' 8 24 ≠ 0)) ∨
    (op = 4 ∧ (payload.extractLsb' 8 24 ≠ 0 ∨
      payload.extractLsb' 0 8 ∉ [0x80#8, 0x40#8, 0x20#8, 0x10#8])) ∨
    (op = 5 ∧ payload.extractLsb' 16 16 ≠ 0) ∨ (op = 6 ∧ payload.extractLsb' 1 31 ≠ 0) ∨
    (op = 7 ∧ payload.extractLsb' 8 8 ≠ 0)

/-- Words written out from R85 to R91 (and 95_test_vectors.md), one for each command. -/
def Obligations.SpecWordsDecode : Prop :=
  decode 0x010000000000 = .ok .start ∧
  decode 0x020000000040 = .ok (.setVolume 64) ∧
  decode 0x030008030F04 = .ok (.setAdsr 0 8 3 15 4) ∧
  decode 0x040200000020 = .ok (.setWaveform 2 .saw) ∧
  decode 0x050200000ABC = .ok (.setPulseWidth 2 2748) ∧
  decode 0x060100000001 = .ok (.setFilterEnabled 1 true) ∧
  decode 0x07003900007F = .ok (.playNote 0 0x3900 127)

/-- R96: the text of two commands, and the words it gives for them. -/
def Obligations.AssemblerExamplesOfR96 : Prop :=
  Asm.assemble "playNote(0, 57, 127)".toList = .ok [0x07003900007F] ∧
  Asm.assemble ("setAdsr(0, ".toList ++ [Char.ofNat 123] ++ "att:0x8, dec:0x3, sus:0xF, rel:0x4".toList ++
    [Char.ofNat 125] ++ ")".toList) = .ok [0x030008030F04]

/-! ## The commands -/

/-- R141: StartClock, then Reset, no write; the shadow stays and `res <- OK`. What R33 says of the ghost
chip after `Reset`, all unknown, is part of it. -/
def Obligations.StartEmitsClockThenReset : Prop :=
  ∀ s : State, exec .start s =
    .next { s with res := 0, trace := s.trace ++ [.startClock, .reset], chip := some [] }

/-- R142, both outcomes. -/
def Obligations.SetVolumeScalesAndWrites : Prop :=
  ∀ (vol : Byte) (s : State),
    (vol.toNat ≤ 127 → exec (.setVolume vol) s =
      .next { s with
        vol4 := BitVec.ofNat 4 (vol.toNat * 15 / 127)
        res := 0
        trace := s.trace ++ [.write s.params.addrVolume (BitVec.ofNat 8 (vol.toNat * 15 / 127))]
        chip := s.chip.write s.params.addrVolume.toNat (BitVec.ofNat 8 (vol.toNat * 15 / 127)) }) ∧
    (127 < vol.toNat → exec (.setVolume vol) s = .next { s with res := 3, err := true })

/-- R143, all three outcomes; AD is `attack * 16 + decay`, SR is `sustain * 16 + release`. -/
def Obligations.SetAdsrWritesAdThenSr : Prop :=
  ∀ (voice att dec sus rel : Byte) (s : State),
    (∀ v : VoiceIdx, voice.toNat = v.val → att.toNat ≤ 15 → dec.toNat ≤ 15 → sus.toNat ≤ 15 →
      rel.toNat ≤ 15 → exec (.setAdsr voice att dec sus rel) s =
      .next { s with
        voices := s.voices.set v { s.voice v with
          adsr := ⟨att.setWidth 4, dec.setWidth 4, sus.setWidth 4, rel.setWidth 4⟩ }
        res := 0
        trace := s.trace ++
          [.write (BitVec.ofNat 8 (7 * v.val + 5)) (BitVec.ofNat 8 (att.toNat * 16 + dec.toNat)),
           .write (BitVec.ofNat 8 (7 * v.val + 6)) (BitVec.ofNat 8 (sus.toNat * 16 + rel.toNat))]
        chip := (s.chip.write (7 * v.val + 5) (BitVec.ofNat 8 (att.toNat * 16 + dec.toNat))).write
          (7 * v.val + 6) (BitVec.ofNat 8 (sus.toNat * 16 + rel.toNat)) }) ∧
    (2 < voice.toNat → exec (.setAdsr voice att dec sus rel) s =
      .next { s with res := 1, err := true }) ∧
    (voice.toNat ≤ 2 → 15 < att.toNat ∨ 15 < dec.toNat ∨ 15 < sus.toNat ∨ 15 < rel.toNat →
      exec (.setAdsr voice att dec sus rel) s = .next { s with res := 3, err := true })

/-- R144, both outcomes. -/
def Obligations.SetWaveformWritesControl : Prop :=
  ∀ (voice : Byte) (w : Waveform) (s : State),
    (∀ v : VoiceIdx, voice.toNat = v.val → ∃ d : Byte,
      d = (match w with | .noise => 0x80#8 | .square => 0x40#8 | .saw => 0x20#8 | .triangle => 0x10#8) ∧
      exec (.setWaveform voice w) s =
      .next { s with
        voices := s.voices.set v { s.voice v with wave := d }
        res := 0
        trace := s.trace ++ [.write (BitVec.ofNat 8 (7 * v.val + 4))
          (d ||| if (s.voice v).gate then 1 else 0)]
        chip := s.chip.write (7 * v.val + 4) (d ||| if (s.voice v).gate then 1 else 0) }) ∧
    (2 < voice.toNat → exec (.setWaveform voice w) s = .next { s with res := 1, err := true })

/-- R145, all three outcomes; the bytes are `width mod 256` and `width div 256` (R122). -/
def Obligations.SetPulseWidthWritesLowThenHigh : Prop :=
  ∀ (voice : Byte) (width : WidthOperand) (s : State),
    (∀ v : VoiceIdx, voice.toNat = v.val → width.toNat ≤ 4095 → exec (.setPulseWidth voice width) s =
      .next { s with
        voices := s.voices.set v { s.voice v with pw := BitVec.ofNat 12 width.toNat }
        res := 0
        trace := s.trace ++
          [.write (BitVec.ofNat 8 (7 * v.val + 2)) (BitVec.ofNat 8 (width.toNat % 256)),
           .write (BitVec.ofNat 8 (7 * v.val + 3)) (BitVec.ofNat 8 (width.toNat / 256))]
        chip := (s.chip.write (7 * v.val + 2) (BitVec.ofNat 8 (width.toNat % 256))).write
          (7 * v.val + 3) (BitVec.ofNat 8 (width.toNat / 256)) }) ∧
    (2 < voice.toNat → exec (.setPulseWidth voice width) s = .next { s with res := 1, err := true }) ∧
    (voice.toNat ≤ 2 → 4095 < width.toNat →
      exec (.setPulseWidth voice width) s = .next { s with res := 2, err := true })

/-- R146, both outcomes; the byte is the sum of the flags' weights after the update. -/
def Obligations.SetFilterEnabledWritesAllFlags : Prop :=
  ∀ (voice : Byte) (b : Bool) (s : State),
    (∀ v : VoiceIdx, voice.toNat = v.val → ∃ (flag : VoiceIdx → Bool) (d : Byte),
      (∀ u, flag u = if u = v then b else (s.voice u).filt) ∧
      d = BitVec.ofNat 8 ((if flag 0 then 1 else 0) + (if flag 1 then 2 else 0) +
        (if flag 2 then 4 else 0)) ∧
      exec (.setFilterEnabled voice b) s =
      .next { s with
        voices := s.voices.set v { s.voice v with filt := b }
        res := 0
        trace := s.trace ++ [.write s.params.addrFilter d]
        chip := s.chip.write s.params.addrFilter.toNat d }) ∧
    (2 < voice.toNat → exec (.setFilterEnabled voice b) s = .next { s with res := 1, err := true })

/-- R147, all three outcomes, with `W = NOTE2WORD(N)`. -/
def Obligations.PlayNoteWritesFrequencyThenControl : Prop :=
  ∀ (voice : Byte) (note : RawNote) (velocity : Byte) (s : State),
    (∀ v : VoiceIdx, voice.toNat = v.val → velocity.toNat ≤ 127 → ∃ (lo hi ctrl : Byte),
      lo = BitVec.ofNat 8 ((noteToWord note).toNat % 256) ∧
      hi = BitVec.ofNat 8 ((noteToWord note).toNat / 256) ∧
      ctrl = ((s.voice v).wave ||| if 0 < velocity.toNat then 1 else 0) ∧
      exec (.playNote voice note velocity) s =
      .next { s with
        voices := s.voices.set v { s.voice v with gate := decide (0 < velocity.toNat) }
        res := 0
        trace := s.trace ++
          [.write (BitVec.ofNat 8 (7 * v.val)) lo, .write (BitVec.ofNat 8 (7 * v.val + 1)) hi,
           .write (BitVec.ofNat 8 (7 * v.val + 4)) ctrl]
        chip := ((s.chip.write (7 * v.val) lo).write (7 * v.val + 1) hi).write
          (7 * v.val + 4) ctrl }) ∧
    (2 < voice.toNat → exec (.playNote voice note velocity) s =
      .next { s with res := 1, err := true }) ∧
    (voice.toNat ≤ 2 → 127 < velocity.toNat →
      exec (.playNote voice note velocity) s = .next { s with res := 3, err := true })

/-- R150, R121: a note-off emits the same two frequency writes as a note-on of the same note, and any two
velocities from 1 to 127 do exactly the same. -/
def Obligations.VelocityOnlyGates : Prop :=
  ∀ (voice : Byte) (note : RawNote) (a b : Byte) (s : State),
    (0 < a.toNat → a.toNat ≤ 127 → 0 < b.toNat → b.toNat ≤ 127 →
      exec (.playNote voice note a) s = exec (.playNote voice note b) s) ∧
    (a.toNat ≤ 127 → ∀ s' t, exec (.playNote voice note a) s = .next s' →
      exec (.playNote voice note 0) s = .next t → (emitted s s').take 2 = (emitted s t).take 2)

/-! ## Rejection and status -/

/-- R171, R177, R178: a command with a failing check ends with the code of the first one that fails,
`err` set, and nothing else changed. -/
def Obligations.RejectedCommandChangesOnlyStatus : Prop :=
  ∀ (i : Instr) (s : State), firstFailure i ≠ .ok →
    exec i s = .next { s with res := (firstFailure i).bits, err := true }

/-- R172: the codes. -/
def Obligations.ResultCodesAreThoseOfR172 : Prop :=
  ResultCode.bits .ok = 0 ∧ ResultCode.bits .errVoice = 1 ∧ ResultCode.bits .errPw = 2 ∧
    ResultCode.bits .errRange = 3 ∧ ResultCode.bits .errIllegal = 4

/-- R171, R172: a command passes its checks exactly when it ends with `res = OK`; `err` then is what it
was. -/
def Obligations.AcceptedExactlyWhenResIsOk : Prop :=
  ∀ (i : Instr) (s : State), ∃ s', exec i s = .next s' ∧
    (firstFailure i = .ok ↔ s'.res = 0) ∧ (firstFailure i = .ok → s'.err = s.err)

/-- R185, R30: no step clears `err`. -/
def Obligations.ErrIsSticky : Prop :=
  ∀ s s' : State, step s = .next s' → s.err = true → s'.err = true

/-- R29, R30: the status registers keep a legal value, `res` one of 0 to 4 and OK as long as no command
was rejected. -/
def Obligations.StepKeepsStatusLegal : Prop :=
  ∀ s s' : State, step s = .next s' → (s.res.toNat ≤ 4 ∧ (s.err = false → s.res = 0)) →
    (s'.res.toNat ≤ 4 ∧ (s'.err = false → s'.res = 0))

/-! ## The step -/

/-- R80, R140, R31: when the host presents a word that decodes, the step is that command's execution, in
the state with the word taken and the host's index one higher. -/
def Obligations.StepRunsTheDecodedCommand : Prop :=
  ∀ (s : State) (w : CmdWord) (rest : List CmdWord) (i : Instr),
    s.host.pending = w :: rest → decode w = .ok i →
      step s = exec i { s with host := ⟨rest, s.host.index + 1⟩ }

/-- R94, R176: a word that does not decode is rejected with ERR_ILLEGAL. -/
def Obligations.StepRejectsAnIllegalWord : Prop :=
  ∀ (s : State) (w : CmdWord) (rest : List CmdWord),
    s.host.pending = w :: rest → wordLegal w = false →
      step s = .next { s with host := ⟨rest, s.host.index + 1⟩, res := 4, err := true }

/-- R184, R203 say that the block idles until a word comes. That such a step changes nothing is the
model's choice (log 5). -/
def Obligations.IdleStepChangesNothing : Prop :=
  ∀ s : State, s.host.pending = [] → step s = .next s

/-- R185 ("the block itself never stops"), R31: every step answers a next state, and if a word is presented
it takes that one word off the host's list, accepted or rejected. That there is a step with no word
presented, that it too answers next and takes nothing, is the model's choice (log 5); that the host's
words stand in a list of State is too (log 6). -/
def Obligations.EveryStepGoesOnAndTakesThePresentedWord : Prop :=
  ∀ s : State, ∃ s', step s = .next s' ∧ s'.params = s.params ∧
    s'.host.pending = s.host.pending.tail ∧
    s'.host.index = s.host.index + min 1 s.host.pending.length

/-! ## Frames -/

/-- R37, R22 to R27: each field of the shadow is written only by its command, and only on the command's
voice; no command writes the parameters or the host's side. -/
def Obligations.EachFieldIsWrittenOnlyByItsCommand : Prop :=
  ∀ (i : Instr) (s s' : State), exec i s = .next s' →
    s'.params = s.params ∧ s'.host = s.host ∧
    (∀ u : VoiceIdx,
      ((s'.voice u).wave ≠ (s.voice u).wave → ∃ b w, i = .setWaveform b w ∧ b.toNat = u.val) ∧
      ((s'.voice u).gate ≠ (s.voice u).gate → ∃ b n vel, i = .playNote b n vel ∧ b.toNat = u.val) ∧
      ((s'.voice u).adsr ≠ (s.voice u).adsr →
        ∃ b a d su r, i = .setAdsr b a d su r ∧ b.toNat = u.val) ∧
      ((s'.voice u).pw ≠ (s.voice u).pw → ∃ b w, i = .setPulseWidth b w ∧ b.toNat = u.val) ∧
      ((s'.voice u).filt ≠ (s.voice u).filt →
        ∃ b f, i = .setFilterEnabled b f ∧ b.toNat = u.val)) ∧
    (s'.vol4 ≠ s.vol4 → ∃ vol, i = .setVolume vol) ∧
    (s'.err ≠ s.err → firstFailure i ≠ .ok)

/-- R52, R151: a command other than `start` leaves every chip byte as it was but those it stores to,
`7 * voice + offset` or a global register; after `start` every byte is unknown (R33). -/
def Obligations.OnlyTheStoredBytesOfTheChipChange : Prop :=
  ∀ (i : Instr) (s s' : State), exec i s = .next s' →
    (i ≠ .start → ∀ a, a ∉ storedAddresses s.params i → s'.chip.read a = s.chip.read a) ∧
    (i = .start → ∀ a, s'.chip.read a = none)

/-- R33, R65, U13: once the chip was reset, a byte written is the byte known afterwards; no other byte
changes; and before any reset, when the ghost chip is `none`, every byte is unknown after the write too. -/
def Obligations.ChipReadAfterWrite : Prop :=
  ∀ (c : Chip) (a b : Nat) (d : Byte),
    (c ≠ none → b = a → (c.write a d).read b = some d) ∧
    (b ≠ a → (c.write a d).read b = c.read b) ∧
    (c = none → (c.write a d).read b = none)

/-- R33 with U13, from the trace alone: `chip[a]` is `d` exactly when the trace holds a `Write(a, d)` that
has a `Reset` before it and neither a `Reset` nor another write to `a` after it. With no `Reset` in the
trace, nothing is known. -/
def Obligations.ChipIsTheLastWriteAfterTheLastReset : Prop :=
  ∀ (t : List BusEvent) (a : Addr) (d : Byte), (chipOfTrace t).read a.toNat = some d ↔
    ∃ before since, t = before ++ .write a d :: since ∧ .reset ∈ before ∧ .reset ∉ since ∧
      ∀ e, .write a e ∉ since

/-- R204 step 2, U13, D16: until `start` is issued, every other command still runs and emits its events, and
nothing becomes known of the chip. -/
def Obligations.NothingIsKnownOfTheChipBeforeStart : Prop :=
  ∀ (i : Instr) (s : State), s.chip = none → i ≠ .start → ∃ s', exec i s = .next s' ∧
    s'.chip = none ∧ (∀ a, s'.chip.read a = none) ∧
    (firstFailure i = .ok → (emitted s s').length = eventCount i)

/-- R204 steps 1 to 3: `start` as the first command after block reset puts StartClock, Reset at the head of
the trace and leaves every chip byte unknown, the shadow's defaults too; every later step keeps that
head; and from then on an accepted setting command makes the byte known at every address it stores
to. -/
def Obligations.BootOrderOfR204 : Prop :=
  (∀ p : Params, ∃ s, exec .start (State.resetWith p) = .next s ∧ beginsWithStart s.trace = true ∧
    (∀ a, s.chip.read a = none) ∧ s.voices = (State.resetWith p).voices) ∧
  (∀ s s' : State, beginsWithStart s.trace = true → step s = .next s' →
    beginsWithStart s'.trace = true) ∧
  (∀ (i : Instr) (s : State), beginsWithStart s.trace = true → s.chip = chipOfTrace s.trace →
    firstFailure i = .ok → ∃ s', exec i s = .next s' ∧
      ∀ a ∈ storedAddresses s.params i, ∃ d, s'.chip.read a = some d)

/-- R51, R148, R63: a voice register's address is `7 * v + offset`, at most 20, and two registers share
one only if they are the same. -/
def Obligations.VoiceAddressesAreDistinct : Prop :=
  (∀ v : VoiceIdx, (voiceAddr v .freqLo).toNat = 7 * v.val ∧
    (voiceAddr v .freqHi).toNat = 7 * v.val + 1 ∧ (voiceAddr v .pwLo).toNat = 7 * v.val + 2 ∧
    (voiceAddr v .pwHi).toNat = 7 * v.val + 3 ∧ (voiceAddr v .control).toNat = 7 * v.val + 4 ∧
    (voiceAddr v .ad).toNat = 7 * v.val + 5 ∧ (voiceAddr v .sr).toNat = 7 * v.val + 6) ∧
  (∀ v r, (voiceAddr v r).toNat ≤ 20) ∧
  (∀ v r u q, voiceAddr v r = voiceAddr u q → v = u ∧ r = q)

/-! ## The bus -/

/-- R151, R65: an accepted command appends exactly its number of events to the trace, a rejected one
none. -/
def Obligations.EventCountsOfR151 : Prop :=
  ∀ (i : Instr) (s : State), ∃ s' ev, exec i s = .next s' ∧ s'.trace = s.trace ++ ev ∧
    (firstFailure i = .ok → ev.length = eventCount i) ∧ (firstFailure i ≠ .ok → ev = [])

/-- R65 (b), (c): no step drops, changes or reorders an event already emitted, and none emits more than
three. -/
def Obligations.TraceOnlyGrows : Prop :=
  ∀ s s' : State, step s = .next s' → ∃ ev, s'.trace = s.trace ++ ev ∧ ev.length ≤ 3

/-- R152: a command given twice emits the same events twice. -/
def Obligations.RepeatedCommandEmitsTheSameEvents : Prop :=
  ∀ (i : Instr) (s s' s'' : State), exec i s = .next s' → exec i s' = .next s'' →
    emitted s' s'' = emitted s s'

/-- R67, R205: whatever the chip held since it was reset, after an accepted `setWaveform` or `playNote` the
control register of the voice holds waveform and gate as the shadow has them, and after an accepted
`setFilterEnabled` the filter register holds all three flags. -/
def Obligations.CompositeRegistersComeFromTheShadow : Prop :=
  ∀ (i : Instr) (s s' : State), s.chip ≠ none → exec i s = .next s' → firstFailure i = .ok →
    (∀ (b : Byte) (v : VoiceIdx), b.toNat = v.val →
      ((∃ w, i = .setWaveform b w) ∨ ∃ n vel, i = .playNote b n vel) →
      s'.chip.read (7 * v.val + 4) =
        some ((s'.voice v).wave ||| if (s'.voice v).gate then 1 else 0)) ∧
    ((∃ b f, i = .setFilterEnabled b f) → s'.chip.read s.params.addrFilter.toNat =
      some (BitVec.ofNat 8 ((if (s'.voice 0).filt then 1 else 0) +
        (if (s'.voice 1).filt then 2 else 0) + (if (s'.voice 2).filt then 4 else 0))))

/-- R53 to R59: the bits of each data byte that the block builds. The control byte for each of the five
values a waveform field can hold: the four masks, and RESET_WAVE, which may also be 0x00 (R8). -/
def Obligations.DataByteLayouts : Prop :=
  (∀ (m : Byte) (g : Bool), m ∈ [0x00#8, 0x10#8, 0x20#8, 0x40#8, 0x80#8] →
    (ctrlByte m g).extractLsb' 1 3 = 0 ∧ (ctrlByte m g).getLsbD 0 = g ∧
    (ctrlByte m g).extractLsb' 4 4 = m.extractLsb' 4 4) ∧
  Waveform.mask .noise = 0x80 ∧ Waveform.mask .square = 0x40 ∧ Waveform.mask .saw = 0x20 ∧
  Waveform.mask .triangle = 0x10 ∧
  (∀ f0 f1 f2 : Bool, (filtByte f0 f1 f2).getLsbD 0 = f0 ∧ (filtByte f0 f1 f2).getLsbD 1 = f1 ∧
    (filtByte f0 f1 f2).getLsbD 2 = f2 ∧ (filtByte f0 f1 f2).extractLsb' 3 5 = 0) ∧
  (∀ n : Nibble, (volByte n).extractLsb' 0 4 = n ∧ (volByte n).extractLsb' 4 4 = 0) ∧
  (∀ p : PulseWidth, pwLo p = p.extractLsb' 0 8 ∧ (pwHi p).extractLsb' 0 4 = p.extractLsb' 8 4 ∧
    (pwHi p).extractLsb' 4 4 = 0) ∧
  (∀ e : Adsr, (adByte e).extractLsb' 4 4 = e.att ∧ (adByte e).extractLsb' 0 4 = e.dec ∧
    (srByte e).extractLsb' 4 4 = e.sus ∧ (srByte e).extractLsb' 0 4 = e.rel) ∧
  (∀ w : FreqWord, freqLo w = w.extractLsb' 0 8 ∧ freqHi w = w.extractLsb' 8 8)

/-- R37, R24, R25, R27, R29, R30, R33: what a command emits and answers, and what it makes of the state
that commands read, depends on that state and the operands alone; and each of the envelope, `pw`, `vol4` and
`err`, where the command changes it, ends the same whatever it and the other unread fields were. So
nothing is computed from `att`, `dec`, `sus`, `rel`, `pw`, `vol4`, `res`, `err`, the trace or the chip. -/
def Obligations.CommandsReadOnlyWaveGateAndFilter : Prop :=
  ∀ (i : Instr) (s t s' t' : State), sameReadState s t → exec i s = .next s' → exec i t = .next t' →
    emitted s s' = emitted t t' ∧ s'.res = t'.res ∧ sameReadState s' t' ∧
    (∀ v : VoiceIdx,
      ((s'.voice v).adsr = (t'.voice v).adsr ∨
        (s'.voice v).adsr = (s.voice v).adsr ∧ (t'.voice v).adsr = (t.voice v).adsr) ∧
      ((s'.voice v).pw = (t'.voice v).pw ∨
        (s'.voice v).pw = (s.voice v).pw ∧ (t'.voice v).pw = (t.voice v).pw)) ∧
    (s'.vol4 = t'.vol4 ∨ s'.vol4 = s.vol4 ∧ t'.vol4 = t.vol4) ∧
    (s'.err = t'.err ∨ s'.err = s.err ∧ t'.err = t.err)

/-- The same of one step: two machines that agree on what commands read and are given the same words put the
same events on the bus, and agree again. -/
def Obligations.StepsOfAgreeingMachinesAgree : Prop :=
  ∀ s t s' t' : State, sameReadState s t → s.host.pending = t.host.pending →
    step s = .next s' → step t = .next t' →
      emitted s s' = emitted t t' ∧ sameReadState s' t' ∧ s'.host.pending = t'.host.pending

/-- The same of whole runs: two machines that agree on parameters, waveforms, gates and filter flags, and
are given the same words, put the same events on the bus. So the reset values of R24, R25 and R27 are
"not observable on the bus". -/
def Obligations.UnreadStateNeverReachesTheBus : Prop :=
  ∀ (k : Nat) (s t s' t' : State), sameReadState s t → s.host.pending = t.host.pending →
    Sys2Proof.core.run k s = .next s' → Sys2Proof.core.run k t = .next t' →
      emitted s s' = emitted t t'

/-! ## Invariants -/

/-- R34: every step keeps the agreement of shadow and chip, register by register. -/
def Obligations.StepKeepsShadowAndChipInAgreement : Prop :=
  ∀ s s' : State, s.params.Admissible → ShadowConsistent s → step s = .next s' →
    s'.params.Admissible ∧ ShadowConsistent s'

/-- R34, R36: block reset with admissible parameters satisfies every invariant. -/
def Obligations.ResetMeetsTheInvariant : Prop :=
  (∀ p : Params, p.Admissible → Inv (State.resetWith p)) ∧ Inv State.reset

/-- Every step keeps the whole invariant, from any state that has it: R8, R21, R22, R29, R30, R33, R34 and
the canonical form of the ghost chip. -/
def Obligations.StepKeepsTheInvariant : Prop :=
  ∀ s s' : State, Inv s → step s = .next s' → Inv s'

/-- R33, R65: every step, from any state, keeps the ghost chip in canonical form, so that equal knowledge of
the chip is equal data. -/
def Obligations.StepKeepsChipInCanonicalForm : Prop :=
  ∀ s s' : State, step s = .next s' → s.chip.wf = true → s'.chip.wf = true

/-- R33: every step keeps the ghost chip what the bus trace alone makes it. -/
def Obligations.StepKeepsChipTheReplayOfTheTrace : Prop :=
  ∀ s s' : State, step s = .next s' → s.chip = chipOfTrace s.trace → s'.chip = chipOfTrace s'.trace

/-- R22, R21: every step keeps each waveform field one of the four masks or RESET_WAVE; after an accepted
`setWaveform` it is one of the four. -/
def Obligations.StepKeepsWaveformsLegal : Prop :=
  (∀ s s' : State, step s = .next s' → (∀ v, waveLegal s.params (s.voice v)) →
    ∀ v, waveLegal s'.params (s'.voice v)) ∧
  (∀ (b : Byte) (w : Waveform) (v : VoiceIdx) (s s' : State), b.toNat = v.val →
    exec (.setWaveform b w) s = .next s' →
      (s'.voice v).wave ∈ [0x80#8, 0x40#8, 0x20#8, 0x10#8])

/-- Every state that any list of words takes the block to, from block reset with any admissible
parameters, satisfies every invariant: R21, R29, R33, R34 at once. The corollary of the step lemma
`StepKeepsTheInvariant` and of `ResetMeetsTheInvariant`. -/
def Obligations.EveryReachableStateMeetsTheInvariant : Prop :=
  ∀ (p : Params) (words : List CmdWord) (k : Nat) (s' : State), p.Admissible →
    Sys2Proof.core.run k ({ State.resetWith p with host := ⟨words, 0⟩ } : State) = .next s' → Inv s'

/-! ## The numeric converter -/

/-- R116: the integer computation is the real formula, for all 65536 notes. -/
def Obligations.NoteToWordIsTheRealFormula : Prop :=
  ∀ n : RawNote, noteExponent n = n.toInt - 17664 ∧ -50432 ≤ noteExponent n ∧
    noteExponent n ≤ 15103 ∧
    wFull n = ⌊(1100000 / 149 : ℝ) * (2 : ℝ) ^ ((noteExponent n : ℝ) / 3072) + 1 / 2⌋₊ ∧
    (noteToWord n).toNat = wFull n % 65536

/-- R111 to R116: the source's two functions, composed, give the same word. -/
def Obligations.NoteToWordIsHzToWordOfNoteToHz : Prop :=
  ∀ n : RawNote, hzToWord (noteToHz (noteOfRaw n)) = noteToWord n

/-- R117: `x(N)` is never an integer plus one half, so `W_full(N)` is the integer nearest to it, with room
on both sides. -/
def Obligations.NoTies : Prop :=
  ∀ n : RawNote, (∀ m : ℤ, noteSteps n ≠ (m : ℝ) + 1 / 2) ∧
    (wFull n : ℝ) - 1 / 2 < noteSteps n ∧ noteSteps n < (wFull n : ℝ) + 1 / 2

/-- R118: the characterisation by natural numbers alone, with its strict inequalities; its bound; and its
other form, the largest number whose left inequality holds. -/
def Obligations.IntegerCharacterisationOfR118 : Prop :=
  ∀ n : RawNote, wFull n ≤ 222932 ∧
    (0 ≤ noteExponent n → ∀ m : ℕ, wFull n = m ↔
      (m = 0 ∨ ((2 * m - 1) * 149) ^ 3072 < 2200000 ^ 3072 * 2 ^ (noteExponent n).toNat) ∧
      2200000 ^ 3072 * 2 ^ (noteExponent n).toNat < ((2 * m + 1) * 149) ^ 3072) ∧
    (noteExponent n < 0 → ∀ m : ℕ, wFull n = m ↔
      (m = 0 ∨ ((2 * m - 1) * 149) ^ 3072 * 2 ^ (-noteExponent n).toNat < 2200000 ^ 3072) ∧
      2200000 ^ 3072 < ((2 * m + 1) * 149) ^ 3072 * 2 ^ (-noteExponent n).toNat) ∧
    (∀ m : ℕ, m ≤ wFull n ↔ m = 0 ∨ ((2 * m - 1) * 149) ^ 3072 * 2 ^ (-noteExponent n).toNat <
      2200000 ^ 3072 * 2 ^ (noteExponent n).toNat)

/-- R119 (a) to (f): order; the notes that give 0; the notes that fit 16 bits; the extremes; the whole
notes that fit; an octave doubles `x` exactly and not the rounded word. -/
def Obligations.FrequencyWordFactsOfR119 : Prop :=
  (∀ m n : RawNote, m.toInt ≤ n.toInt → wFull m ≤ wFull n) ∧
  (∀ n : RawNote, wFull n = 0 ↔ n.toInt ≤ -24883) ∧
  (∀ n : RawNote, n.toInt = -24882 → wFull n = 1) ∧
  (∀ n : RawNote, wFull n ≤ 65535 ↔ n.toInt ≤ 27341) ∧ wFull 0x6ACD = 65535 ∧
  wFull 0x6ACE = 65549 ∧ noteToWord 0x6ACE = 0x000D ∧
  (∀ n : RawNote, wFull n ≤ 222932) ∧ wFull 0x7FFF = 222932 ∧
  noteToWord 0x7FFF = 0x66D4 ∧ wFull 0x8000 = 0 ∧
  (∀ j : ℕ, j ≤ 127 → (wFull (BitVec.ofNat 16 (256 * j)) ≤ 65535 ↔ j ≤ 106)) ∧
  (∀ m n : RawNote, n.toInt = m.toInt + 3072 → noteSteps n = 2 * noteSteps m) ∧
  wFull 0x3900 = 3691 ∧ wFull 0x4500 = 7383

/-- R120: the scaled volume is `floor(vol * 15 / 127)`, in [0, 15], and only the top input reaches 15. -/
def Obligations.VolumeScaling : Prop :=
  ∀ vol : Byte, vol.toNat ≤ 127 → (scale4 vol).toNat = vol.toNat * 15 / 127 ∧
    ((scale4 vol).toNat = 15 ↔ vol.toNat = 127) ∧ ((scale4 vol).toNat = 0 ↔ vol.toNat ≤ 8)

/-! ## Hazards -/

/-- R206: `start` makes every chip byte unknown and leaves the shadow, so a `setWaveform` that follows
writes the shadow's gate: a voice that was playing is gated on again, and its control byte is the one
byte known of the chip. -/
def Obligations.StartLeavesAStaleGate : Prop :=
  ∀ (s : State) (v : VoiceIdx) (w : Waveform), (s.voice v).gate = true →
    ∃ t u, exec .start s = .next t ∧ (∀ a, t.chip.read a = none) ∧ t.voices = s.voices ∧
      exec (.setWaveform (BitVec.ofNat 8 v.val) w) t = .next u ∧
      emitted t u = [.write (BitVec.ofNat 8 (7 * v.val + 4)) (w.mask ||| 1)] ∧
      u.chip.read (7 * v.val + 4) = some (w.mask ||| 1) ∧
      (∀ a, a ≠ 7 * v.val + 4 → u.chip.read a = none)

/-- R211: on any voice whose waveform field is still RESET_WAVE, whatever other commands came before,
`playNote` writes `RESET_WAVE | gate` to CONTROL, and the field stays RESET_WAVE. -/
def Obligations.PlayNoteBeforeSetWaveformUsesResetWave : Prop :=
  ∀ (s : State) (v : VoiceIdx) (n : RawNote) (vel : Byte),
    (s.voice v).wave = s.params.resetWave → vel.toNat ≤ 127 →
    ∃ s', exec (.playNote (BitVec.ofNat 8 v.val) n vel) s = .next s' ∧
      s'.trace.getLast? = some (.write (BitVec.ofNat 8 (7 * v.val + 4))
        (s.params.resetWave ||| if 0 < vel.toNat then 1 else 0)) ∧
      (s'.voice v).wave = s.params.resetWave
end

