-- ==== Sys2Proof/Laws/Converter.lean ====
section
/-! SUPPORT. The integer conversion of a note: the powers, the order, and the search. -/

namespace Sys2Proof.Machine

@[simp] theorem pow3072_eq (x : Nat) : pow3072 x = x ^ 3072 := by
  rw [pow3072, ← pow_mul]

@[simp] theorem pow2_eq (e : Nat) : pow2 e = 2 ^ e := by
  rw [pow2, ← pow_mul, ← pow_add, Nat.div_add_mod']

/-- What `noteReaches` decides. -/
theorem noteReaches_iff (k : Int) (n : Nat) :
    noteReaches k n = true ↔
      n = 0 ∨ ((2 * n - 1) * 149) ^ 3072 * 2 ^ (-k).toNat ≤ 2200000 ^ 3072 * 2 ^ k.toNat := by
  simp only [-Nat.reducePow, noteReaches, pow3072_eq, pow2_eq, Bool.or_eq_true, beq_iff_eq, decide_eq_true_eq,
    stepNumerator, twiceA4Steps]

/-- A number below one that is reached is reached. -/
theorem noteReaches_of_le {k : Int} {m n : Nat} (hmn : m ≤ n) (h : noteReaches k n = true) :
    noteReaches k m = true := by
  rw [noteReaches_iff] at h ⊢
  rcases h with rfl | h
  · exact .inl (Nat.le_zero.mp hmn)
  · have hle : (2 * m - 1) * 149 ≤ (2 * n - 1) * 149 := Nat.mul_le_mul_right _ (by omega)
    exact .inr ((Nat.mul_le_mul_right _ (Nat.pow_le_pow_left hle _)).trans h)

/-- The search answers the largest number below its bound that `p` accepts. -/
theorem searchBits_spec (p : Nat → Bool) (hp : ∀ m n, m ≤ n → p n = true → p m = true)
    (b acc : Nat) (hacc : p acc = true) :
    p (searchBits p b acc) = true ∧ acc ≤ searchBits p b acc ∧
      searchBits p b acc < acc + 2 ^ b ∧
      ∀ n, n < acc + 2 ^ b → p n = true → n ≤ searchBits p b acc := by
  induction b generalizing acc with
  | zero => exact ⟨hacc, le_rfl, by simp [searchBits], fun n hn _ => by simp [searchBits] at *; omega⟩
  | succ b ih =>
    have hpow : 2 ^ (b + 1) = 2 ^ b + 2 ^ b := by rw [pow_succ]; omega
    by_cases h : p (acc + 2 ^ b) = true
    · obtain ⟨h1, h2, h3, h4⟩ := ih _ h
      simp only [searchBits, h, if_true]
      exact ⟨h1, by omega, by omega, fun n hn => h4 n (by omega)⟩
    · obtain ⟨h1, h2, h3, h4⟩ := ih _ hacc
      simp only [searchBits, h]
      refine ⟨h1, h2, by simp only [Bool.false_eq_true, if_false]; omega, fun n hn hpn => ?_⟩
      refine h4 n ?_ hpn
      by_contra hge
      exact h (hp _ _ (by omega) hpn)

/-- `wFull` is the largest number below `2 ^ 18` that is reached. -/
theorem wFull_spec (n : RawNote) :
    noteReaches (noteExponent n) (wFull n) = true ∧ wFull n < 2 ^ 18 ∧
      ∀ m, m < 2 ^ 18 → noteReaches (noteExponent n) m = true → m ≤ wFull n := by
  obtain ⟨h1, -, h3, h4⟩ := searchBits_spec (noteReaches (noteExponent n))
    (fun _ _ => noteReaches_of_le) 18 0 (by simp [noteReaches])
  exact ⟨h1, by simpa [wFull] using h3, fun m hm => h4 m (by omega)⟩

end Sys2Proof.Machine
end

