-- ==== Sys2Proof/Laws/Decode.lean ====
section
/-! SUPPORT. The fields of a command word. -/

namespace Sys2Proof

@[simp] theorem opField_ofFields (op voice : Byte) (p : BitVec 32) :
    opField (ofFields op voice p) = op := by
  ext i hi
  have h1 : 40 + i < 48 := by omega
  have h2 : ¬ 8 + i < 8 := by omega
  have h3 : ¬ 40 + i < 32 := by omega
  have h4 : 40 + i - 32 = 8 + i := by omega
  simp [opField, ofFields, h1, h3, h4, p.getLsbD_of_ge (40 + i) (by omega), BitVec.getLsbD_eq_getElem hi]

@[simp] theorem voiceField_ofFields (op voice : Byte) (p : BitVec 32) :
    voiceField (ofFields op voice p) = voice := by
  ext i hi
  have h1 : 32 + i < 48 := by omega
  have h2 : 32 + i < 40 := by omega
  simp [voiceField, ofFields, h1, h2, hi]

@[simp] theorem payloadField_ofFields (op voice : Byte) (p : BitVec 32) :
    payloadField (ofFields op voice p) = p := by
  ext i hi
  have h1 : i < 48 := by omega
  have h2 : i < 40 := by omega
  simp [payloadField, ofFields, hi, h1, h2]

/-- A word is made of its three fields. -/
@[simp] theorem ofFields_fields (w : CmdWord) :
    ofFields (opField w) (voiceField w) (payloadField w) = w := by
  ext i hi
  simp only [opField, voiceField, payloadField, ofFields]
  rcases Nat.lt_or_ge i 32 with h | h
  · have h2 : i < 40 := by omega
    simp [h, h2, BitVec.getLsbD_eq_getElem hi]
  · have h3 : ¬ i < 32 := by omega
    rcases Nat.lt_or_ge i 40 with h2 | h2
    · have h4 : 32 + (i - 32) = i := by omega
      have h5 : i - 32 < 8 := by omega
      simp [h2, h3, h4, h5, BitVec.getLsbD_eq_getElem hi]
    · have h3' : ¬ i < 40 := by omega
      have h4 : 40 + (i - 40) = i := by omega
      have h5 : i - 40 < 8 := by omega
      have h6 : ¬ i - 32 < 8 := by omega
      simp [h3, h3', h4, h5, h6, BitVec.getLsbD_eq_getElem hi]

@[simp] theorem waveformOfMask_mask (wf : Waveform) : waveformOfMask wf.mask = some wf := by
  cases wf <;> rfl

end Sys2Proof
end

