-- ==== Sys2Proof/Laws/Memory.lean ====
section
/-! SUPPORT. The ghost chip: read after write, and the canonical form. -/

namespace Sys2Proof.Machine

@[simp] theorem memory_read_nil (a : Nat) : Memory.read [] a = none := rfl

/-- Read after write, at the written address and at every other. -/
@[simp] theorem memory_read_write (m : Memory) (a b : Nat) (d : Byte) :
    (m.write a d).read b = if b = a then some d else m.read b := by
  induction m with
  | nil => rfl
  | cons c m ih =>
    obtain ⟨k, e⟩ := c
    by_cases hlt : a < k
    · simp [Memory.write, hlt, Memory.read]
    · by_cases heq : a = k
      · subst heq
        by_cases hb : b = a <;> simp [Memory.write, Memory.read, hb]
      · by_cases hb : b = k
        · have : b ≠ a := fun h => heq (h.symm.trans hb)
          simp [Memory.write, hlt, heq, Memory.read, hb, Ne.symm heq]
        · simp [Memory.write, hlt, heq, Memory.read, hb, ih]

/-- A memory in canonical form whose addresses all lie above `k`. -/
def aboveWf (k : Nat) : Memory → Bool
  | [] => true
  | (a, d) :: m => decide (k < a) && Memory.wf ((a, d) :: m)

theorem memory_wf_cons (a : Nat) (d : Byte) (m : Memory) :
    Memory.wf ((a, d) :: m) = true ↔ (m = [] → a < 256) ∧ aboveWf a m = true := by
  cases m with
  | nil => simp [Memory.wf, aboveWf]
  | cons c m => obtain ⟨b, e⟩ := c; simp [Memory.wf, aboveWf]

theorem memory_wf_head_lt {a : Nat} {d : Byte} {m : Memory} (h : Memory.wf ((a, d) :: m) = true) :
    a < 256 := by
  induction m generalizing a d with
  | nil => simpa [Memory.wf] using h
  | cons c m ih =>
    obtain ⟨b, e⟩ := c
    simp only [Memory.wf, Bool.and_eq_true, decide_eq_true_eq] at h
    exact h.1.trans (ih h.2)

theorem memory_write_head (m : Memory) (a : Nat) (d : Byte) (k : Nat) (hk : k < a) (ha : a < 256)
    (h : aboveWf k m = true) : aboveWf k (m.write a d) = true := by
  induction m generalizing k with
  | nil => simp [Memory.write, aboveWf, Memory.wf, hk, ha]
  | cons c m ih =>
    obtain ⟨b, e⟩ := c
    simp only [aboveWf, Bool.and_eq_true, decide_eq_true_eq] at h
    by_cases hlt : a < b
    · simp [Memory.write, hlt, aboveWf, Memory.wf, hk, h.2]
    · by_cases heq : a = b
      · subst heq
        have := (memory_wf_cons a e m).1 h.2
        simp only [Memory.write, lt_irrefl, if_false, if_true, aboveWf, Bool.and_eq_true,
          decide_eq_true_eq]
        exact ⟨hk, (memory_wf_cons a d m).2 this⟩
      · have hrest := (memory_wf_cons b e m).1 h.2
        have hb : b < a := by omega
        simp only [Memory.write, hlt, heq, if_false, aboveWf, Bool.and_eq_true, decide_eq_true_eq]
        exact ⟨h.1, (memory_wf_cons b e _).2
          ⟨fun _ => memory_wf_head_lt h.2, ih b hb hrest.2⟩⟩

/-- A write keeps the canonical form. -/
theorem memory_wf_write (m : Memory) (a : Addr) (d : Byte) (h : m.wf = true) :
    (m.write a.toNat d).wf = true := by
  have ha : a.toNat < 256 := a.isLt
  cases m with
  | nil => simp [Memory.write, Memory.wf, ha]
  | cons c m =>
    obtain ⟨b, e⟩ := c
    by_cases hlt : a.toNat < b
    · simp [Memory.write, hlt, Memory.wf, h]
    · by_cases heq : a.toNat = b
      · subst heq
        simp only [Memory.write, lt_irrefl, if_false, if_true]
        exact (memory_wf_cons _ d m).2 ((memory_wf_cons _ e m).1 h)
      · have hrest := (memory_wf_cons b e m).1 h
        simp only [Memory.write, hlt, heq, if_false]
        exact (memory_wf_cons b e _).2 ⟨fun _ => memory_wf_head_lt h,
          memory_write_head m _ d b (by omega) ha hrest.2⟩

/-! The ghost chip over it. -/

@[simp] theorem chip_read_none (a : Nat) : Chip.read none a = none := rfl
@[simp] theorem chip_read_some (m : Memory) (a : Nat) : Chip.read (some m) a = m.read a := rfl
@[simp] theorem chip_write_none (a : Nat) (d : Byte) : Chip.write none a d = none := rfl
@[simp] theorem chip_write_some (m : Memory) (a : Nat) (d : Byte) :
    Chip.write (some m) a d = some (m.write a d) := rfl
@[simp] theorem chip_write_eq_none (c : Chip) (a : Nat) (d : Byte) :
    c.write a d = none ↔ c = none := by cases c <;> simp
@[simp] theorem chip_wf_none : Chip.wf none = true := rfl
@[simp] theorem chip_wf_some (m : Memory) : Chip.wf (some m) = m.wf := rfl

/-- Read after write: known at the written address if a `Reset` came before, and as before elsewhere. -/
theorem chip_read_write (c : Chip) (a b : Nat) (d : Byte) :
    (c.write a d).read b = if b = a ∧ c ≠ none then some d else c.read b := by
  cases c <;> simp

/-- After a `Reset`, without the side condition. -/
theorem chip_read_write_of_ne_none {c : Chip} (h : c ≠ none) (a b : Nat) (d : Byte) :
    (c.write a d).read b = if b = a then some d else c.read b := by
  simp [chip_read_write, h]

/-- A write does not touch another address. -/
theorem chip_read_write_ne (c : Chip) {a b : Nat} (h : b ≠ a) (d : Byte) :
    (c.write a d).read b = c.read b := by
  simp [chip_read_write, h]

/-- Every bus event keeps the canonical form. -/
theorem chip_wf_chipAfter (e : BusEvent) (c : Chip) (h : c.wf = true) :
    (chipAfter e c).wf = true := by
  cases e with
  | startClock => exact h
  | reset => rfl
  | write a d =>
    cases c with
    | none => rfl
    | some m => exact memory_wf_write m a d h

@[simp] theorem chipAfter_startClock (c : Chip) : chipAfter .startClock c = c := rfl
@[simp] theorem chipAfter_reset (c : Chip) : chipAfter .reset c = some [] := rfl
@[simp] theorem chipAfter_write (a : Addr) (d : Byte) (c : Chip) :
    chipAfter (.write a d) c = c.write a.toNat d := rfl

@[simp] theorem chipOfTrace_nil : chipOfTrace [] = none := rfl

/-- One more event on the trace. -/
@[simp] theorem chipOfTrace_append (t : List BusEvent) (e : BusEvent) :
    chipOfTrace (t ++ [e]) = chipAfter e (chipOfTrace t) := by
  simp [chipOfTrace]

/-- The ghost chip is reset exactly when the trace has a `Reset` (U13). -/
theorem chipOfTrace_eq_none (t : List BusEvent) : chipOfTrace t = none ↔ .reset ∉ t := by
  induction t using List.reverseRecOn with
  | nil => simp
  | append_singleton t e ih =>
    rw [chipOfTrace_append]
    cases e <;> simp [ih]

end Sys2Proof.Machine
end

