-- ==== Sys2Proof/Laws/Operands.lean ====
section
/-! SUPPORT. The checks and the addresses: what each answers, said once. -/

namespace Sys2Proof.Machine

theorem checkVoice_ok {voice : Byte} (h : voice.toNat < 3) :
    checkVoice voice = .ok ⟨voice.toNat, h⟩ := by simp [checkVoice, h]

theorem checkVoice_bad {voice : Byte} (h : 2 < voice.toNat) :
    checkVoice voice = .error .errVoice := by
  have : ¬ voice.toNat < 3 := by omega
  simp [checkVoice, this]

/-- A voice index, taken back to an operand, passes its check. -/
@[simp] theorem checkVoice_ofFin (v : VoiceIdx) : checkVoice (BitVec.ofNat 8 v.val) = .ok v := by
  fin_cases v <;> rfl

theorem checkWidth_ok {w : WidthOperand} (h : w.toNat ≤ 4095) :
    checkWidth w = .ok (w.setWidth 12) := by simp [checkWidth, widthMax, h]

theorem checkWidth_bad {w : WidthOperand} (h : 4095 < w.toNat) :
    checkWidth w = .error .errPw := by
  have : ¬ w.toNat ≤ widthMax := by simp [widthMax]; omega
  simp [checkWidth, this]

theorem checkVolume_ok {vol : Byte} (h : vol.toNat ≤ 127) : checkVolume vol = .ok vol := by
  simp [checkVolume, volMax, h]

theorem checkVolume_bad {vol : Byte} (h : 127 < vol.toNat) :
    checkVolume vol = .error .errRange := by
  have : ¬ vol.toNat ≤ volMax := by simp [volMax]; omega
  simp [checkVolume, this]

theorem checkVelocity_ok {vel : Byte} (h : vel.toNat ≤ 127) : checkVelocity vel = .ok vel := by
  simp [checkVelocity, velMax, h]

theorem checkVelocity_bad {vel : Byte} (h : 127 < vel.toNat) :
    checkVelocity vel = .error .errRange := by
  have : ¬ vel.toNat ≤ velMax := by simp [velMax]; omega
  simp [checkVelocity, this]

theorem checkAdsr_ok {att dec sus rel : Byte}
    (h : att.toNat ≤ 15 ∧ dec.toNat ≤ 15 ∧ sus.toNat ≤ 15 ∧ rel.toNat ≤ 15) :
    checkAdsr att dec sus rel =
      .ok ⟨att.setWidth 4, dec.setWidth 4, sus.setWidth 4, rel.setWidth 4⟩ := by
  simp [checkAdsr, nibbleMax, h]

theorem checkAdsr_bad {att dec sus rel : Byte}
    (h : 15 < att.toNat ∨ 15 < dec.toNat ∨ 15 < sus.toNat ∨ 15 < rel.toNat) :
    checkAdsr att dec sus rel = .error .errRange := by
  have : ¬ (att.toNat ≤ nibbleMax ∧ dec.toNat ≤ nibbleMax ∧ sus.toNat ≤ nibbleMax ∧
      rel.toNat ≤ nibbleMax) := by simp only [nibbleMax]; omega
  simp only [checkAdsr, if_neg this]

@[simp] theorem checked_ok {α} (a : α) (s : State) (go) : checked (.ok a) s go = go a := rfl
@[simp] theorem checked_error {α} (c : ResultCode) (s : State)
    (go : α → Host.Outcome State Fault Refusal) :
    checked (.error c) s go = .next (finish c s) := rfl

/-- The address of a voice register as a number (R51). -/
@[simp] theorem voiceAddr_toNat (v : VoiceIdx) (r : VoiceReg) :
    (voiceAddr v r).toNat = 7 * v.val + regOffset r := by
  fin_cases v <;> cases r <;> rfl

theorem voiceAddr_le (v : VoiceIdx) (r : VoiceReg) : 7 * v.val + regOffset r ≤ 20 := by
  fin_cases v <;> cases r <;> decide

/-- Two registers of different voice or different offset have different addresses. -/
theorem regAddr_ne (u v : VoiceIdx) {a b : Nat} (ha : a < 7) (hb : b < 7) (h : u ≠ v ∨ a ≠ b) :
    7 * u.val + a ≠ 7 * v.val + b := by
  intro heq
  have huv : u = v := Fin.ext (by omega)
  subst huv
  rcases h with h | h
  · exact h rfl
  · omega

/-- A global register's address is no voice register's (R8, R63). -/
theorem regAddr_ne_global (v : VoiceIdx) {a g : Nat} (ha : a < 7) (hg : 21 ≤ g) :
    7 * v.val + a ≠ g := by
  have := v.isLt
  omega

end Sys2Proof.Machine
end

