-- ==== Sys2Proof/Laws/State.lean ====
section
/-! SUPPORT. One lemma per field per update, and the laws of the three voice records. -/

namespace Sys2Proof.Machine

/-! Voice records. -/

@[simp] theorem voices_get_set (vs : Voices) (v u : VoiceIdx) (x : Voice) :
    (vs.set v x).get u = if u = v then x else vs.get u := by
  fin_cases v <;> fin_cases u <;> rfl

@[simp] theorem voices_set_get (vs : Voices) (v : VoiceIdx) : vs.set v (vs.get v) = vs := by
  fin_cases v <;> rfl

@[simp] theorem voice_resetWith (p : Params) (v : VoiceIdx) :
    (State.resetWith p).voice v = voiceReset p := by
  fin_cases v <;> rfl

/-! `setVoice`. -/

@[simp] theorem setVoice_params (v x) (s : State) : (setVoice v x s).params = s.params := rfl
@[simp] theorem setVoice_voices (v x) (s : State) : (setVoice v x s).voices = s.voices.set v x := rfl
@[simp] theorem setVoice_vol4 (v x) (s : State) : (setVoice v x s).vol4 = s.vol4 := rfl
@[simp] theorem setVoice_res (v x) (s : State) : (setVoice v x s).res = s.res := rfl
@[simp] theorem setVoice_err (v x) (s : State) : (setVoice v x s).err = s.err := rfl
@[simp] theorem setVoice_trace (v x) (s : State) : (setVoice v x s).trace = s.trace := rfl
@[simp] theorem setVoice_chip (v x) (s : State) : (setVoice v x s).chip = s.chip := rfl
@[simp] theorem setVoice_host (v x) (s : State) : (setVoice v x s).host = s.host := rfl
@[simp] theorem setVoice_voice (v x) (s : State) (u : VoiceIdx) :
    (setVoice v x s).voice u = if u = v then x else s.voice u := voices_get_set ..

/-! `setVol4`. -/

@[simp] theorem setVol4_params (n) (s : State) : (setVol4 n s).params = s.params := rfl
@[simp] theorem setVol4_voices (n) (s : State) : (setVol4 n s).voices = s.voices := rfl
@[simp] theorem setVol4_vol4 (n) (s : State) : (setVol4 n s).vol4 = n := rfl
@[simp] theorem setVol4_res (n) (s : State) : (setVol4 n s).res = s.res := rfl
@[simp] theorem setVol4_err (n) (s : State) : (setVol4 n s).err = s.err := rfl
@[simp] theorem setVol4_trace (n) (s : State) : (setVol4 n s).trace = s.trace := rfl
@[simp] theorem setVol4_chip (n) (s : State) : (setVol4 n s).chip = s.chip := rfl
@[simp] theorem setVol4_host (n) (s : State) : (setVol4 n s).host = s.host := rfl
@[simp] theorem setVol4_voice (n) (s : State) (u : VoiceIdx) : (setVol4 n s).voice u = s.voice u := rfl

/-! `emit`, and the bus calls over it. -/

@[simp] theorem emit_params (e) (s : State) : (emit e s).params = s.params := rfl
@[simp] theorem emit_voices (e) (s : State) : (emit e s).voices = s.voices := rfl
@[simp] theorem emit_vol4 (e) (s : State) : (emit e s).vol4 = s.vol4 := rfl
@[simp] theorem emit_res (e) (s : State) : (emit e s).res = s.res := rfl
@[simp] theorem emit_err (e) (s : State) : (emit e s).err = s.err := rfl
@[simp] theorem emit_trace (e) (s : State) : (emit e s).trace = s.trace ++ [e] := rfl
@[simp] theorem emit_chip (e) (s : State) : (emit e s).chip = chipAfter e s.chip := rfl
@[simp] theorem emit_host (e) (s : State) : (emit e s).host = s.host := rfl
@[simp] theorem emit_voice (e) (s : State) (u : VoiceIdx) : (emit e s).voice u = s.voice u := rfl

@[simp] theorem busStartClock_eq (s : State) : busStartClock s = emit .startClock s := rfl
@[simp] theorem busReset_eq (s : State) : busReset s = emit .reset s := rfl
@[simp] theorem busWrite_eq (a d) (s : State) : busWrite a d s = emit (.write a d) s := rfl

/-! `finish`, and `done` and `reject` over it. -/

@[simp] theorem finish_params (c) (s : State) : (finish c s).params = s.params := rfl
@[simp] theorem finish_voices (c) (s : State) : (finish c s).voices = s.voices := rfl
@[simp] theorem finish_vol4 (c) (s : State) : (finish c s).vol4 = s.vol4 := rfl
@[simp] theorem finish_res (c) (s : State) : (finish c s).res = c.bits := rfl
@[simp] theorem finish_err (c) (s : State) : (finish c s).err = errAfter c s.err := rfl
@[simp] theorem finish_trace (c) (s : State) : (finish c s).trace = s.trace := rfl
@[simp] theorem finish_chip (c) (s : State) : (finish c s).chip = s.chip := rfl
@[simp] theorem finish_host (c) (s : State) : (finish c s).host = s.host := rfl
@[simp] theorem finish_voice (c) (s : State) (u : VoiceIdx) : (finish c s).voice u = s.voice u := rfl

@[simp] theorem done_eq (s : State) : done s = finish .ok s := rfl
@[simp] theorem reject_eq (c) (s : State) : reject c s = finish c s := rfl

@[simp] theorem errAfter_ok (e : Bool) : errAfter .ok e = e := rfl

theorem errAfter_of_ne_ok {c : ResultCode} (h : c ≠ .ok) (e : Bool) : errAfter c e = true := by
  cases c <;> first | contradiction | rfl

theorem bits_le_four (c : ResultCode) : c.bits.toNat ≤ 4 := by cases c <;> decide

/-! `takeWord` and `presentNext`. -/

@[simp] theorem takeWord_params (s : State) : (takeWord s).params = s.params := rfl
@[simp] theorem takeWord_voices (s : State) : (takeWord s).voices = s.voices := rfl
@[simp] theorem takeWord_vol4 (s : State) : (takeWord s).vol4 = s.vol4 := rfl
@[simp] theorem takeWord_res (s : State) : (takeWord s).res = s.res := rfl
@[simp] theorem takeWord_err (s : State) : (takeWord s).err = s.err := rfl
@[simp] theorem takeWord_trace (s : State) : (takeWord s).trace = s.trace := rfl
@[simp] theorem takeWord_chip (s : State) : (takeWord s).chip = s.chip := rfl
@[simp] theorem takeWord_host (s : State) :
    (takeWord s).host = ⟨s.host.pending.tail, s.host.index + 1⟩ := rfl
@[simp] theorem takeWord_voice (s : State) (u : VoiceIdx) : (takeWord s).voice u = s.voice u := rfl

@[simp] theorem presented_presentNext (w : CmdWord) (s : State) :
    presented (presentNext w s) = some w := rfl

end Sys2Proof.Machine
end

