-- ==== Sys2Proof/Laws/Exec.lean ====
section
/-! SUPPORT. What executing a command can do, said once: the accepted command's state in terms of the
shared operations, and the rejection of every other. -/

namespace Sys2Proof.Machine

/-- The state an accepted command ends in, `v` being its voice where it has one. -/
def effect (i : Instr) (v : VoiceIdx) (s : State) : State :=
  match i with
  | .start => finish .ok (emit .reset (emit .startClock s))
  | .setVolume vol => finish .ok (writeVolume (setVol4 (scale4 vol) s))
  | .setAdsr _ att dec sus rel =>
    finish .ok (writeEnvelope v (setVoice v
      { s.voice v with adsr := ⟨att.setWidth 4, dec.setWidth 4, sus.setWidth 4, rel.setWidth 4⟩ } s))
  | .setWaveform _ wave =>
    finish .ok (writeControl v (setVoice v { s.voice v with wave := wave.mask } s))
  | .setPulseWidth _ width =>
    finish .ok (writePulseWidth v (setVoice v { s.voice v with pw := width.setWidth 12 } s))
  | .setFilterEnabled _ enabled =>
    finish .ok (writeFilter (setVoice v { s.voice v with filt := enabled } s))
  | .playNote _ note velocity =>
    finish .ok (writeControl v (writeFrequency v (noteToWord note)
      (setVoice v { s.voice v with gate := velToGate velocity } s)))

/-- The voice operand of a command that has one. -/
def voiceOperand : Instr → Option Byte
  | .start => none
  | .setVolume _ => none
  | .setAdsr voice _ _ _ _ => some voice
  | .setWaveform voice _ => some voice
  | .setPulseWidth voice _ => some voice
  | .setFilterEnabled voice _ => some voice
  | .playNote voice _ _ => some voice

/-- Every execution is one of two things: an accepted command takes its effect, on the voice its operand
names, or the first failing check rejects it. -/
theorem exec_cases (i : Instr) (s : State) :
    (firstFailure i = .ok ∧ ∃ v : VoiceIdx, (∀ b, voiceOperand i = some b → b.toNat = v.val) ∧
      exec i s = .next (effect i v s)) ∨
    (firstFailure i ≠ .ok ∧ exec i s = .next (finish (firstFailure i) s)) := by
  cases i with
  | start => exact .inl ⟨rfl, 0, by simp [voiceOperand], rfl⟩
  | setVolume vol =>
    by_cases h : 127 < vol.toNat
    · exact .inr (by simp [firstFailure, h, exec, execSetVolume, checkVolume_bad h])
    · refine .inl ⟨by simp [firstFailure, h], 0, by simp [voiceOperand], ?_⟩
      simp [exec, execSetVolume, checkVolume_ok (Nat.le_of_not_lt h), effect]
  | setAdsr voice att dec sus rel =>
    by_cases hv : 2 < voice.toNat
    · exact .inr (by simp [firstFailure, hv, exec, execSetAdsr, checkVoice_bad hv])
    · have hv' : voice.toNat < 3 := by omega
      by_cases h : 15 < att.toNat ∨ 15 < dec.toNat ∨ 15 < sus.toNat ∨ 15 < rel.toNat
      · exact .inr (by
          simp [firstFailure, hv, h, exec, execSetAdsr, checkVoice_ok hv', checkAdsr_bad h])
      · refine .inl ⟨by simp only [firstFailure, if_neg hv, if_neg h], ⟨voice.toNat, hv'⟩,
          by simp [voiceOperand], ?_⟩
        have h' : att.toNat ≤ 15 ∧ dec.toNat ≤ 15 ∧ sus.toNat ≤ 15 ∧ rel.toNat ≤ 15 := by omega
        simp [exec, execSetAdsr, checkVoice_ok hv', checkAdsr_ok h', effect]
  | setWaveform voice wave =>
    by_cases hv : 2 < voice.toNat
    · exact .inr (by simp [firstFailure, hv, exec, execSetWaveform, checkVoice_bad hv])
    · have hv' : voice.toNat < 3 := by omega
      refine .inl ⟨by simp [firstFailure, hv], ⟨voice.toNat, hv'⟩, by simp [voiceOperand], ?_⟩
      simp [exec, execSetWaveform, checkVoice_ok hv', effect]
  | setPulseWidth voice width =>
    by_cases hv : 2 < voice.toNat
    · exact .inr (by simp [firstFailure, hv, exec, execSetPulseWidth, checkVoice_bad hv])
    · have hv' : voice.toNat < 3 := by omega
      by_cases h : 4095 < width.toNat
      · exact .inr (by
          simp [firstFailure, hv, h, exec, execSetPulseWidth, checkVoice_ok hv', checkWidth_bad h])
      · refine .inl ⟨by simp [firstFailure, hv, h], ⟨voice.toNat, hv'⟩, by simp [voiceOperand], ?_⟩
        simp [exec, execSetPulseWidth, checkVoice_ok hv', checkWidth_ok (Nat.le_of_not_lt h), effect]
  | setFilterEnabled voice enabled =>
    by_cases hv : 2 < voice.toNat
    · exact .inr (by simp [firstFailure, hv, exec, execSetFilterEnabled, checkVoice_bad hv])
    · have hv' : voice.toNat < 3 := by omega
      refine .inl ⟨by simp [firstFailure, hv], ⟨voice.toNat, hv'⟩, by simp [voiceOperand], ?_⟩
      simp [exec, execSetFilterEnabled, checkVoice_ok hv', effect]
  | playNote voice note velocity =>
    by_cases hv : 2 < voice.toNat
    · exact .inr (by simp [firstFailure, hv, exec, execPlayNote, checkVoice_bad hv])
    · have hv' : voice.toNat < 3 := by omega
      by_cases h : 127 < velocity.toNat
      · exact .inr (by
          simp [firstFailure, hv, h, exec, execPlayNote, checkVoice_ok hv', checkVelocity_bad h])
      · refine .inl ⟨by simp [firstFailure, hv, h], ⟨voice.toNat, hv'⟩, by simp [voiceOperand], ?_⟩
        simp [exec, execPlayNote, checkVoice_ok hv', checkVelocity_ok (Nat.le_of_not_lt h), effect]

/-- Every effect ends with `res = OK` and leaves `err`, the host and the parameters. -/
theorem effect_frame (i : Instr) (v : VoiceIdx) (s : State) :
    (effect i v s).res = 0 ∧ (effect i v s).err = s.err ∧ (effect i v s).host = s.host ∧
      (effect i v s).params = s.params := by
  cases i <;> simp [effect, ResultCode.bits, writeControl, writeFrequency, writeFilter,
    writePulseWidth, writeEnvelope, writeVolume]

/-- The effect depends on the index only where the command has a voice operand. -/
theorem effect_voice_unique (i : Instr) (v u : VoiceIdx) (s : State)
    (hv : ∀ b, voiceOperand i = some b → b.toNat = v.val)
    (hu : ∀ b, voiceOperand i = some b → b.toNat = u.val) : effect i v s = effect i u s := by
  cases h : voiceOperand i with
  | none => cases i <;> simp [voiceOperand] at h <;> rfl
  | some b => rw [Fin.ext ((hv b h).symm.trans (hu b h))]

/-- A rejection, field by field. -/
theorem finish_of_ne_ok {c : ResultCode} (h : c ≠ .ok) (s : State) :
    finish c s = { s with res := c.bits, err := true } := by
  simp [finish, errAfter_of_ne_ok h]

/-- Every step is one of three things: nothing presented, an illegal word, or a decoded command. -/
theorem step_cases (s : State) :
    (presented s = none ∧ step s = .next s) ∨
    (∃ w e, presented s = some w ∧ decode w = .error e ∧
      step s = .next (finish .errIllegal (takeWord s))) ∨
    (∃ w i, presented s = some w ∧ decode w = .ok i ∧ step s = exec i (takeWord s)) := by
  cases hp : presented s with
  | none => exact .inl ⟨rfl, by simp [step, hp, idle]⟩
  | some w =>
    cases hd : decode w with
    | error e => exact .inr (.inl ⟨w, e, rfl, hd, by simp [step, hp, hd, rejectIllegal]⟩)
    | ok i => exact .inr (.inr ⟨w, i, rfl, hd, by simp [step, hp, hd]⟩)

end Sys2Proof.Machine
end

