-- ==== Sys2Proof/Laws/PerInstr.lean ====
section
/-! SUPPORT. Per-instruction facts about commands as syntax. Family `Fields`: the opcode and voice bytes of
a command's word. -/

namespace Sys2Proof.Laws.Fields

/-- `op` and the voice operand of a command: the numbers of R83, and 0 where the command has no voice
operand (R82). -/
def opAndVoice : Instr → Byte × Byte
  | .start => (0x01, 0)
  | .setVolume _ => (0x02, 0)
  | .setAdsr voice _ _ _ _ => (0x03, voice)
  | .setWaveform voice _ => (0x04, voice)
  | .setPulseWidth voice _ => (0x05, voice)
  | .setFilterEnabled voice _ => (0x06, voice)
  | .playNote voice _ _ => (0x07, voice)

/-- The two top bytes of the encoded word are these. -/
def Statement (i : Instr) : Prop :=
  (opField (encode i), voiceField (encode i)) = opAndVoice i

theorem start : Statement .start := by
  simp [Statement, encode, opAndVoice]

theorem setVolume (vol : Byte) : Statement (.setVolume vol) := by
  simp [Statement, encode, opAndVoice]

theorem setAdsr (voice att dec sus rel : Byte) : Statement (.setAdsr voice att dec sus rel) := by
  simp [Statement, encode, opAndVoice]

theorem setWaveform (voice : Byte) (wave : Waveform) : Statement (.setWaveform voice wave) := by
  simp [Statement, encode, opAndVoice]

theorem setPulseWidth (voice : Byte) (width : WidthOperand) :
    Statement (.setPulseWidth voice width) := by
  simp [Statement, encode, opAndVoice]

theorem setFilterEnabled (voice : Byte) (enabled : Bool) :
    Statement (.setFilterEnabled voice enabled) := by
  simp [Statement, encode, opAndVoice]

theorem playNote (voice : Byte) (note : RawNote) (velocity : Byte) :
    Statement (.playNote voice note velocity) := by
  simp [Statement, encode, opAndVoice]

end Sys2Proof.Laws.Fields
end

