-- ==== Sys2Proof/Laws/Run.lean ====
section
/-! SUPPORT. Induction over a run, once: what every step keeps, every run keeps. -/

namespace Sys2Proof.Machine

/-- Of any machine. -/
theorem core_run_keeps (M : Host.Core) (P : M.State → Prop)
    (hstep : ∀ s s', P s → M.step s = .next s' → P s')
    (k : Nat) (s s' : M.State) (hs : P s) (h : M.run k s = .next s') : P s' := by
  induction k generalizing s with
  | zero =>
    rw [Host.Core.run] at h
    cases h
    exact hs
  | succ k ih =>
    rw [Host.Core.run] at h
    cases hq : M.step s with
    | next t =>
      rw [hq] at h
      exact ih t (hstep s t hs hq) h
    | fault r => rw [hq] at h; cases h
    | refused r => rw [hq] at h; cases h

/-- Of this machine. -/
theorem run_keeps (P : State → Prop) (hstep : ∀ s s', P s → step s = .next s' → P s')
    (k : Nat) (s s' : State) (hs : P s) (h : Sys2Proof.core.run k s = .next s') : P s' :=
  core_run_keeps Sys2Proof.core P hstep k s s' hs h

end Sys2Proof.Machine
end

