-- ==== Sys2Proof/Tests/Slice0.lean ====
section
/-! SUPPORT. Tests. Expected values are those of spec/95_test_vectors.md (section named at each test) or
of the rule named. -/

namespace Sys2Proof.Tests

open Sys2Proof.Machine

/-! ## Well-formedness: one ill-formed term for each check -/

theorem test_word_reserved_opcode : wordLegal 0x080000000000 = false := by decide
theorem test_word_zero_opcode : wordLegal 0x000000000000 = false := by decide
theorem test_word_start_payload : wordLegal 0x010000000001 = false := by decide
theorem test_word_start_voice : wordLegal 0x010100000000 = false := by decide
theorem test_word_setVolume_voice : wordLegal 0x020100000040 = false := by decide
theorem test_word_setVolume_payload : wordLegal 0x020000000140 = false := by decide
theorem test_word_setWaveform_mask : wordLegal 0x0400000000C0 = false := by decide
theorem test_word_setPulseWidth_payload : wordLegal 0x050000010000 = false := by decide
theorem test_word_setFilterEnabled_payload : wordLegal 0x060000000002 = false := by decide
theorem test_word_playNote_payload : wordLegal 0x07003900017F = false := by decide
theorem test_params_filter_in_voice_block : ¬ Params.Admissible ⟨20, 24, 0⟩ := by decide
theorem test_params_volume_in_voice_block : ¬ Params.Admissible ⟨23, 0, 0⟩ := by decide
theorem test_params_same_address : ¬ Params.Admissible ⟨23, 23, 0⟩ := by decide
theorem test_params_reset_wave : ¬ Params.Admissible ⟨23, 24, 0xC0⟩ := by decide
theorem test_params_default : defaultParams.Admissible := by decide

/-- No word is of two rows of the opcode table. -/
theorem test_rows_disjoint :
    opcodeTable.Pairwise fun a b => a.mask &&& b.mask &&& (a.value ^^^ b.value) ≠ 0 := by decide

/-! ## Decoding (sections 2.5, 2.6; R85 to R91) -/

theorem test_decode_start : decode 0x010000000000 = .ok .start := by decide
theorem test_decode_setVolume : decode 0x02000000007E = .ok (.setVolume 126) := by decide
theorem test_decode_setAdsr : decode 0x030763000000 = .ok (.setAdsr 7 99 0 0 0) := by decide
theorem test_decode_setAdsr_all : decode 0x03FFFFFFFFFF = .ok (.setAdsr 255 255 255 255 255) := by
  decide
theorem test_decode_setWaveform : decode 0x040300000080 = .ok (.setWaveform 3 .noise) := by decide
theorem test_decode_setPulseWidth : decode 0x050300001388 = .ok (.setPulseWidth 3 5000) := by decide
theorem test_decode_setFilterEnabled :
    decode 0x06FF00000001 = .ok (.setFilterEnabled 255 true) := by decide
theorem test_decode_playNote : decode 0x0701FF000000 = .ok (.playNote 1 0xFF00 0) := by decide
theorem test_decode_bytes :
    decodeBytes 0x07 0x00 0x39 0x00 0x00 0x7F = .ok (.playNote 0 0x3900 127) := by decide
theorem test_decode_reserved : decode 0xFFFFFFFFFFFF = .error .reservedOpcode := by decide
theorem test_decode_must_be_zero : decode 0x0500FFFFFFFF = .error .nonzeroReservedBits := by decide
theorem test_decode_bad_waveform : decode 0x040000000041 = .error .badWaveform := by decide
theorem test_encode_setAdsr : encode (.setAdsr 0 8 3 15 4) = 0x030008030F04 := by decide
theorem test_encode_playNote : encode (.playNote 0 0x3900 127) = 0x07003900007F := by decide

/-! ## Commands (sections 1, 2.5) -/

/-- What one step on a word shows: the events, `res` and `err`. -/
def shown (s : State) (w : Nat) : Option (List BusEvent × ResBits × Bool) :=
  match step (s.withFetchWord 48 w) with
  | .next t => some (emitted s t, t.res, t.err)
  | _ => none

/-- S7. -/
theorem test_start : shown State.reset 0x010000000000 = some ([.startClock, .reset], 0, false) := by
  decide

/-- "setVolume(126)": the truncating division, and the default address 24. -/
theorem test_setVolume_126 :
    shown State.reset 0x02000000007E = some ([.write 24 0x0E], 0, false) := by decide

/-- "with ADDR_VOLUME = 0x30 the setVolume rows would write address 48"; 128 is out of range. -/
theorem test_setVolume_other_address :
    shown (State.resetWith ⟨0x17, 0x30, 0⟩) 0x02000000007F = some ([.write 48 0x0F], 0, false) ∧
    shown State.reset 0x020000000080 = some ([], 3, true) := by decide

/-- S3. -/
theorem test_setAdsr :
    shown State.reset 0x030008030F04 = some ([.write 5 0x83, .write 6 0xF4], 0, false) := by decide

/-- The voice is checked before the range. -/
theorem test_setAdsr_priority : shown State.reset 0x030763000000 = some ([], 1, true) ∧
    shown State.reset 0x030200100000 = some ([], 3, true) := by decide

/-- S1, voice 2. -/
theorem test_setWaveform :
    shown State.reset 0x040200000040 = some ([.write 18 0x40], 0, false) := by decide

/-- A state with voice 1 gated and holding Noise, and an earlier rejection. -/
def playing : State :=
  { State.reset with
    voices := State.reset.voices.set 1 { voiceReset defaultParams with wave := 0x80, gate := true }
    res := 1, err := true, trace := [.startClock, .reset, .write 11 0x81],
    chip := some [(11, 0x81)] }

/-- P4 step 3: the gate stays and the old mask goes; `err` is sticky (R185). -/
theorem test_setWaveform_keeps_gate :
    shown playing 0x040100000010 = some ([.write 11 0x11], 0, true) := by decide

/-- S4, and 0xABC on voice 2. -/
theorem test_setPulseWidth :
    shown State.reset 0x050000000100 = some ([.write 2 0x00, .write 3 0x01], 0, false) ∧
    shown State.reset 0x050200000ABC = some ([.write 16 0xBC, .write 17 0x0A], 0, false) := by decide

theorem test_setPulseWidth_rejected : shown State.reset 0x050000001000 = some ([], 2, true) ∧
    shown State.reset 0x050300001388 = some ([], 1, true) := by decide

/-- S6: voice 1's flag with voice 0's already set. -/
theorem test_setFilterEnabled :
    shown { State.reset with
      voices := State.reset.voices.set 0 { voiceReset defaultParams with filt := true } }
      0x060100000001 = some ([.write 23 0x03], 0, false) := by decide

theorem test_setFilterEnabled_off :
    shown State.reset 0x060100000000 = some ([.write 23 0x00], 0, false) := by decide

/-- Section 2.5: default waveform, and the truncated word of note 107. -/
theorem test_playNote :
    shown State.reset 0x07016B000040 =
      some ([.write 7 0xF5, .write 8 0x02, .write 11 0x01], 0, false) := by decide

/-- S5's note-off, on a voice that is playing: the frequency is rewritten. -/
theorem test_playNote_off :
    shown playing 0x070139000000 =
      some ([.write 7 0x6B, .write 8 0x0E, .write 11 0x80], 0, true) := by decide

/-- Section 2.6: an illegal word, and the mask check before the voice check. -/
theorem test_illegal : shown State.reset 0x080000000000 = some ([], 4, true) ∧
    shown State.reset 0x040300000000 = some ([], 4, true) := by decide

/-! ## The converter (sections 2.1, 2.3): the source's value, the nearest ties, the overflow, the ends -/

theorem test_note_57 : noteToWord 0x3900 = 0x0E6B := by decide
theorem test_note_69 : noteToWord 0x4500 = 0x1CD7 := by decide
theorem test_note_75 : noteToWord 0x4B00 = 0x28C9 := by decide
theorem test_note_near_half_below : wFull 0x785C = 143416 := by decide
theorem test_note_last_zero : wFull 0x9ECD = 0 ∧ wFull 0x9ECE = 1 := by decide
theorem test_note_first_overflow : noteToWord 0x6ACD = 0xFFFF ∧ noteToWord 0x6ACE = 0x000D := by decide
theorem test_note_ends : wFull 0x7FFF = 222932 ∧ wFull 0x8000 = 0 := by decide

/-- Section 2.2: the first input of each output. -/
theorem test_scale4_steps :
    [0, 9, 17, 26, 34, 43, 51, 60, 68, 77, 85, 94, 102, 111, 119, 127].map (fun v => (scale4 v).toNat) =
      List.range 16 := by decide

/-! ## The assembler (R96) -/

theorem test_asm_fraction :
    Asm.assemble "playNote(0, 60.5, 100); start()".toList = .ok [0x07003C800064, 0x010000000000] := by
  decide +kernel
theorem test_asm_negative : Asm.assemble "playNote(1, -1, 0)".toList = .ok [0x0701FF000000] := by
  decide +kernel
/-- Log 18: digits on both sides of the point, the model's choice. -/
theorem test_asm_point_needs_digits : Asm.decimal ".5".toList = none ∧ Asm.decimal "57.".toList = none := by
  decide +kernel
theorem test_asm_not_a_multiple : Asm.assemble "playNote(0, 60.3, 1)".toList = .error .badNote := by
  decide +kernel
theorem test_asm_out_of_range : Asm.assemble "playNote(0, 128, 1)".toList = .error .badNote := by
  decide +kernel
theorem test_asm_names :
    Asm.assemble "setWaveform(2, Saw)\nsetFilterEnabled(1, true)".toList =
      .ok [0x040200000020, 0x060100000001] := by decide +kernel

/-! ## Witnesses: for each obligation with hypotheses, a case that meets them -/

/-- A state that presents the words. -/
def withWords (ws : List CmdWord) (s : State) : State := { s with host := ⟨ws, 0⟩ }

/-- The state a next outcome holds, and the given one otherwise. -/
def after (o : Host.Outcome State Fault Refusal) (s : State) : State :=
  match o with
  | .next t => t
  | _ => s

/-- What is known of chip byte `a` after the words, from block reset. -/
def chipAt (ws : List CmdWord) (a : Nat) : Option Byte :=
  match Sys2Proof.core.run ws.length (withWords ws State.reset) with
  | .next t => State.chip t |>.read a
  | _ => none

/-- U13, R204 step 2: with no `start` before it, a write makes nothing known. -/
theorem test_write_before_start : chipAt [0x040000000040] 4 = none := by decide

/-- P5 after step 5: the control byte, with the stale gate, is known, and the frequency is not. -/
theorem test_chip_after_second_start :
    chipAt [0x010000000000, 0x040000000020, 0x07004500007F, 0x010000000000, 0x040000000040] 4 = some 0x41 ∧
    chipAt [0x010000000000, 0x040000000020, 0x07004500007F, 0x010000000000, 0x040000000040] 0 = none := by
  decide

/-- The premises of `ChipReadAfterWrite`, for each of its clauses. -/
theorem witness_ChipReadAfterWrite : (some [] : Chip) ≠ none ∧ (255 : Nat) = 255 ∧ (0 : Nat) ≠ 255 ∧
    (none : Chip) = none := by decide

/-- Both sides of `ChipIsTheLastWriteAfterTheLastReset`. -/
theorem witness_ChipIsTheLastWrite :
    (chipOfTrace [.reset, .write 255 1, .write 255 2]).read 255 = some 2 ∧
    (chipOfTrace [.write 255 2]).read 255 = none := by decide

theorem witness_NothingIsKnownBeforeStart : State.reset.chip = none ∧ Instr.setVolume 127 ≠ .start ∧
    firstFailure (.setVolume 127) = .ok := by decide

theorem witness_BootOrder : beginsWithStart playing.trace = true ∧
    playing.chip = chipOfTrace playing.trace ∧ firstFailure (.setAdsr 2 15 15 15 15) = .ok ∧
    step (withWords [0x040100000010] playing) =
      .next (after (step (withWords [0x040100000010] playing)) playing) :=
  ⟨by decide, by decide, by decide, rfl⟩

theorem witness_DataByteLayouts : (0x80 : Byte) ∈ [0x00#8, 0x10#8, 0x20#8, 0x40#8, 0x80#8] := by decide

theorem witness_EncodeOfDecodeIsTheWord : decode 0x07003900007F = .ok (.playNote 0 0x3900 127) := by
  decide

theorem witness_SetVolume : (127 : Byte).toNat ≤ 127 ∧ 127 < (128 : Byte).toNat := by decide

theorem witness_SetAdsr : (2 : Byte).toNat = (2 : VoiceIdx).val ∧ (15 : Byte).toNat ≤ 15 ∧
    2 < (3 : Byte).toNat ∧ (2 : Byte).toNat ≤ 2 ∧ 15 < (16 : Byte).toNat := by decide

theorem witness_SetWaveform_SetFilterEnabled :
    (2 : Byte).toNat = (2 : VoiceIdx).val ∧ 2 < (3 : Byte).toNat := by decide

theorem witness_SetPulseWidth : (2 : Byte).toNat = (2 : VoiceIdx).val ∧
    (4095 : WidthOperand).toNat ≤ 4095 ∧ 2 < (3 : Byte).toNat ∧
    (2 : Byte).toNat ≤ 2 ∧ 4095 < (4096 : WidthOperand).toNat := by decide

theorem witness_PlayNote : (2 : Byte).toNat = (2 : VoiceIdx).val ∧ (127 : Byte).toNat ≤ 127 ∧
    2 < (3 : Byte).toNat ∧ (2 : Byte).toNat ≤ 2 ∧ 127 < (128 : Byte).toNat := by decide

theorem witness_VelocityOnlyGates : 0 < (1 : Byte).toNat ∧ (1 : Byte).toNat ≤ 127 ∧
    0 < (127 : Byte).toNat ∧ (127 : Byte).toNat ≤ 127 ∧
    exec (.playNote 0 0x3900 127) playing = .next (after (exec (.playNote 0 0x3900 127) playing) playing) ∧
    exec (.playNote 0 0x3900 0) playing = .next (after (exec (.playNote 0 0x3900 0) playing) playing) :=
  ⟨by decide, by decide, by decide, by decide, rfl, rfl⟩

theorem witness_RejectedCommand : firstFailure (.setPulseWidth 0 4096) ≠ .ok := by decide

theorem witness_AcceptedExactlyWhenResIsOk : firstFailure (.setPulseWidth 0 4095) = .ok := by decide

/-- Premises of `ErrIsSticky`, `StepKeepsStatusLegal`, `TraceOnlyGrows`, `StepKeepsChipInCanonicalForm`,
`StepKeepsChipTheReplayOfTheTrace`: a step that changes the state, from one that had a rejection. -/
theorem witness_step_premises :
    step (withWords [0x040100000010] playing) =
      .next (after (step (withWords [0x040100000010] playing)) playing) ∧
    playing.err = true ∧ playing.res.toNat ≤ 4 ∧ (playing.err = false → playing.res = 0) ∧
    playing.chip = chipOfTrace playing.trace ∧ playing.chip.wf = true :=
  ⟨rfl, rfl, by decide, by decide, rfl, rfl⟩

theorem witness_StepRunsTheDecodedCommand :
    (withWords [0x010000000000] playing).host.pending = 0x010000000000 :: [] ∧
      decode 0x010000000000 = .ok .start := by decide

theorem witness_StepRejectsAnIllegalWord :
    (withWords [0] playing).host.pending = 0 :: [] ∧ wordLegal 0 = false := by decide

theorem witness_IdleStep : playing.host.pending = [] := by decide

/-- A premise of each clause of `EachFieldIsWrittenOnlyByItsCommand`: the field does change. -/
theorem witness_EachFieldIsWritten :
    ((after (exec (.setWaveform 1 .saw) playing) playing).voice 1).wave ≠ (playing.voice 1).wave ∧
    ((after (exec (.playNote 1 0 0) playing) playing).voice 1).gate ≠ (playing.voice 1).gate ∧
    ((after (exec (.setAdsr 1 1 2 3 4) playing) playing).voice 1).adsr ≠ (playing.voice 1).adsr ∧
    ((after (exec (.setPulseWidth 1 4095) playing) playing).voice 1).pw ≠ (playing.voice 1).pw ∧
    ((after (exec (.setFilterEnabled 1 true) playing) playing).voice 1).filt ≠ (playing.voice 1).filt ∧
    (after (exec (.setVolume 127) playing) playing).vol4 ≠ playing.vol4 ∧
    (after (exec (.setVolume 128) State.reset) playing).err ≠ State.reset.err := by decide

theorem witness_OnlyTheStoredBytes :
    exec (.playNote 1 0x3900 0) playing = .next (after (exec (.playNote 1 0x3900 0) playing) playing) ∧
    Instr.playNote 1 0x3900 0 ≠ .start ∧ 9 ∉ storedAddresses playing.params (.playNote 1 0x3900 0) :=
  ⟨rfl, by decide, by decide⟩

theorem witness_RepeatedCommand :
    ∃ s s' : State, exec (.setFilterEnabled 2 true) playing = .next s ∧
      exec (.setFilterEnabled 2 true) s = .next s' := ⟨_, _, rfl, rfl⟩

theorem witness_CompositeRegisters : playing.chip ≠ none ∧
    (∃ t, exec (.setWaveform 2 .saw) playing = .next t) ∧ firstFailure (.setWaveform 2 .saw) = .ok ∧
    firstFailure (.playNote 2 0 127) = .ok ∧ firstFailure (.setFilterEnabled 2 false) = .ok ∧
    (2 : Byte).toNat = (2 : VoiceIdx).val :=
  ⟨by decide, ⟨_, rfl⟩, by decide, by decide, by decide, rfl⟩

/-- Two states that agree on what is read and differ in all else, `playing` and this one. -/
def playingOther : State :=
  { playing with
    voices := ⟨{ playing.voices.v0 with pw := 7 }, { playing.voices.v1 with adsr := ⟨1, 2, 3, 4⟩ },
      playing.voices.v2⟩
    vol4 := 9, res := 0, err := false, trace := [.reset, .write 0 1], chip := some [(0, 1)] }

theorem witness_CommandsReadOnly : sameReadState playing playingOther ∧ playing ≠ playingOther ∧
    ∃ s t, exec (.playNote 1 0x3900 0) playing = .next s ∧
      exec (.playNote 1 0x3900 0) playingOther = .next t :=
  ⟨⟨rfl, by decide⟩, by decide, _, _, rfl, rfl⟩

/-- Of whole runs and of one step (`StepsOfAgreeingMachinesAgree`). -/
theorem witness_UnreadState :
    playing.host.pending = playingOther.host.pending ∧
      ∃ s t : State, Sys2Proof.core.run 1 (withWords [0x040100000010] playing) = .next s ∧
        Sys2Proof.core.run 1 (withWords [0x040100000010] playingOther) = .next t :=
  ⟨rfl, _, _, rfl, rfl⟩

/-- Premises of `StepKeepsShadowAndChipInAgreement`, with a chip register known. -/
theorem witness_ShadowConsistent : playing.params.Admissible ∧ ShadowConsistent playing := by
  have hread : ∀ a, playing.chip.read a = if a = 11 then some 0x81#8 else none := fun _ => rfl
  refine ⟨by decide, ⟨?_, ?_, ?_, ?_, ?_, ?_⟩⟩
  · intro v d h
    fin_cases v <;> simp [hread] at h
    rw [← h]
    rfl
  · intro v d h
    fin_cases v <;> simp [hread] at h
  · intro v d h
    fin_cases v <;> simp [hread] at h
  · intro d h
    exact absurd h (by simp [hread, show playing.params.addrFilter.toNat = 23 from rfl])
  · intro d h
    exact absurd h (by simp [hread, show playing.params.addrVolume.toNat = 24 from rfl])
  · intro a ha _ _
    simp [hread]
    omega

theorem witness_WaveformsLegal : (∀ v, waveLegal playing.params (playing.voice v)) ∧
    exec (.setWaveform 2 .triangle) playing =
      .next (after (exec (.setWaveform 2 .triangle) playing) playing) := by
  refine ⟨fun v => ?_, rfl⟩
  fin_cases v
  · exact .inl rfl
  · exact .inr ⟨.noise, rfl⟩
  · exact .inl rfl

/-- A state with a chip byte known that meets the invariant, and a step from it. -/
theorem witness_StepKeepsTheInvariant : Inv playing ∧
    step (withWords [0x040100000010] playing) =
      .next (after (step (withWords [0x040100000010] playing)) playing) :=
  ⟨⟨witness_ShadowConsistent.1, witness_ShadowConsistent.2, rfl, rfl, witness_WaveformsLegal.1,
    by decide, by decide⟩, rfl⟩

theorem witness_Reachable : Params.Admissible ⟨200, 21, 0x40⟩ ∧
    ∃ s : State, Sys2Proof.core.run 1
      ({ State.resetWith ⟨200, 21, 0x40⟩ with host := ⟨[0x020000000040], 0⟩ } : State) = .next s :=
  ⟨by decide, _, rfl⟩

theorem witness_IntegerCharacterisation :
    0 ≤ noteExponent 0x4500 ∧ noteExponent 0x3900 < 0 := by decide

theorem witness_FrequencyWordFacts : (0x8000 : RawNote).toInt ≤ (0x7FFF : RawNote).toInt ∧
    (0x9ECE : RawNote).toInt = -24882 ∧ (0x7FFF : RawNote).toInt = (0x73FF : RawNote).toInt + 3072 := by
  decide

theorem witness_VolumeScaling : (127 : Byte).toNat ≤ 127 := by decide

theorem witness_StartLeavesAStaleGate : (playing.voice 1).gate = true := by decide

theorem witness_PlayNoteBeforeSetWaveform : (playing.voice 2).wave = playing.params.resetWave ∧
    (127 : Byte).toNat ≤ 127 := by decide

end Sys2Proof.Tests
end

