-- ==== Sys2Proof/Proofs/ShadowRegisters.lean ====
section
/-! PROOF. The registers that the shadow determines, and why rewriting one of them from the shadow keeps
shadow and chip in agreement (R34, R67). -/

namespace Sys2Proof.Machine

/-! Runs of bytes at consecutive chip addresses. -/

/-- The chip is known to hold `bs` from address `a` on. -/
def Chip.Holds (c : Chip) (a : Nat) : List Byte → Prop
  | [] => True
  | b :: bs => c.read a = some b ∧ Chip.Holds c (a + 1) bs

/-- The chip after `bs` is written from address `a` on, in rising order. -/
def Chip.writeFrom (c : Chip) (a : Nat) : List Byte → Chip
  | [] => c
  | b :: bs => Chip.writeFrom (c.write a b) (a + 1) bs

/-- If anything is known at `a`, then all of `bs` is known from there on. -/
def Chip.Agrees (c : Chip) (a : Nat) (bs : List Byte) : Prop :=
  ∀ d, c.read a = some d → c.Holds a bs

@[simp] theorem chip_holds_nil (c : Chip) (a : Nat) : c.Holds a [] := trivial

@[simp] theorem chip_holds_cons (c : Chip) (a : Nat) (b : Byte) (bs : List Byte) :
    c.Holds a (b :: bs) ↔ c.read a = some b ∧ c.Holds (a + 1) bs := Iff.rfl

@[simp] theorem chip_writeFrom_nil (c : Chip) (a : Nat) : c.writeFrom a [] = c := rfl

@[simp] theorem chip_writeFrom_cons (c : Chip) (a : Nat) (b : Byte) (bs : List Byte) :
    c.writeFrom a (b :: bs) = (c.write a b).writeFrom (a + 1) bs := rfl

@[simp] theorem chip_writeFrom_none (a : Nat) (bs : List Byte) : Chip.writeFrom none a bs = none := by
  induction bs generalizing a with
  | nil => rfl
  | cons b bs ih => simp [ih]

theorem chip_holds_congr {c c' : Chip} {a : Nat} {bs : List Byte}
    (h : ∀ n, a ≤ n → n < a + bs.length → c'.read n = c.read n) : c'.Holds a bs ↔ c.Holds a bs := by
  induction bs generalizing a with
  | nil => simp
  | cons b bs ih =>
    simp only [List.length_cons] at h
    rw [chip_holds_cons, chip_holds_cons, h a le_rfl (by omega),
      ih fun n hn hlt => h n (by omega) (by omega)]

theorem chip_read_writeFrom_of_outside (c : Chip) {a n : Nat} {bs : List Byte}
    (h : n < a ∨ a + bs.length ≤ n) : (c.writeFrom a bs).read n = c.read n := by
  induction bs generalizing c a with
  | nil => rfl
  | cons b bs ih =>
    simp only [List.length_cons] at h
    rw [chip_writeFrom_cons, ih _ (by omega), chip_read_write_ne c (by omega)]

theorem chip_holds_writeFrom {c : Chip} (hc : c ≠ none) (a : Nat) (bs : List Byte) :
    (c.writeFrom a bs).Holds a bs := by
  induction bs generalizing c a with
  | nil => trivial
  | cons b bs ih =>
    refine ⟨?_, ih (by simpa using hc) (a + 1)⟩
    rw [chip_writeFrom_cons, chip_read_writeFrom_of_outside _ (.inl (Nat.lt_succ_self a)),
      chip_read_write_of_ne_none hc, if_pos rfl]

/-- What was just written agrees; before any `Reset` because nothing is known (U13). -/
theorem chip_agrees_writeFrom (c : Chip) (a : Nat) (bs : List Byte) :
    (c.writeFrom a bs).Agrees a bs := by
  intro d hd
  by_cases hc : c = none
  · simp [hc] at hd
  · exact chip_holds_writeFrom hc a bs

/-- A write elsewhere keeps an agreement. -/
theorem chip_agrees_writeFrom_of_disjoint {c : Chip} {a a' : Nat} {bs bs' : List Byte}
    (hne : 0 < bs'.length) (hdis : a' + bs'.length ≤ a ∨ a + bs.length ≤ a') (h : c.Agrees a' bs') :
    (c.writeFrom a bs).Agrees a' bs' := by
  have hsame : ∀ n, a' ≤ n → n < a' + bs'.length → (c.writeFrom a bs).read n = c.read n :=
    fun n hn hlt => chip_read_writeFrom_of_outside c (by omega)
  intro d hd
  rw [hsame a' le_rfl (by omega)] at hd
  exact (chip_holds_congr hsame).2 (h d hd)

/-! The registers that the shadow determines. The frequency registers are not among them (R34). -/

/-- A register, or register pair, whose content the shadow determines. -/
inductive ShadowReg where
  | control (v : VoiceIdx)
  | envelope (v : VoiceIdx)
  | pulseWidth (v : VoiceIdx)
  | filter
  | volume

/-- Its first address. -/
def ShadowReg.base (p : Params) : ShadowReg → Nat
  | .control v => 7 * v.val + 4
  | .envelope v => 7 * v.val + 5
  | .pulseWidth v => 7 * v.val + 2
  | .filter => p.addrFilter.toNat
  | .volume => p.addrVolume.toNat

/-- The bytes that the shadow says it holds. -/
def ShadowReg.bytes (s : State) : ShadowReg → List Byte
  | .control v => [ctrlByte (s.voice v).wave (s.voice v).gate]
  | .envelope v => [adByte (s.voice v).adsr, srByte (s.voice v).adsr]
  | .pulseWidth v => [pwLo (s.voice v).pw, pwHi (s.voice v).pw]
  | .filter => [filtByte (s.voice 0).filt (s.voice 1).filt (s.voice 2).filt]
  | .volume => [volByte s.vol4]

/-- How many bytes these are. -/
def ShadowReg.size : ShadowReg → Nat
  | .control _ | .filter | .volume => 1
  | .envelope _ | .pulseWidth _ => 2

@[simp] theorem shadowReg_bytes_length (s : State) (r : ShadowReg) : (r.bytes s).length = r.size := by
  cases r <;> rfl

theorem shadowReg_size_pos (r : ShadowReg) : 0 < r.size := by
  cases r <;> simp [ShadowReg.size]

/-- The agreement of R34, register by register of `ShadowReg`. -/
theorem shadowConsistent_iff (s : State) :
    ShadowConsistent s ↔ (∀ r : ShadowReg, s.chip.Agrees (r.base s.params) (r.bytes s)) ∧
      ∀ a, 20 < a → a ≠ s.params.addrFilter.toNat → a ≠ s.params.addrVolume.toNat →
        s.chip.read a = none := by
  constructor
  · intro h
    refine ⟨fun r d hd => ?_, h.others⟩
    cases r with
    | control v => exact ⟨hd.trans (congrArg some (h.control v d hd)), trivial⟩
    | envelope v =>
      obtain ⟨had, hsr⟩ := h.envelope v d hd
      exact ⟨hd.trans (congrArg some had), hsr, trivial⟩
    | pulseWidth v =>
      obtain ⟨hlo, hhi⟩ := h.pulseWidth v d hd
      exact ⟨hd.trans (congrArg some hlo), hhi, trivial⟩
    | filter => exact ⟨hd.trans (congrArg some (h.filter d hd)), trivial⟩
    | volume => exact ⟨hd.trans (congrArg some (h.volume d hd)), trivial⟩
  · rintro ⟨hreg, hothers⟩
    have hfirst {a : Nat} {d b : Byte} (hd : s.chip.read a = some d) (hb : s.chip.read a = some b) :
        d = b := Option.some.inj (hd.symm.trans hb)
    refine ⟨fun v d hd => ?_, fun v d hd => ?_, fun v d hd => ?_, fun d hd => ?_, fun d hd => ?_,
      hothers⟩
    · exact hfirst hd (hreg (.control v) d hd).1
    · obtain ⟨had, hsr, -⟩ := hreg (.envelope v) d hd
      exact ⟨hfirst hd had, hsr⟩
    · obtain ⟨hlo, hhi, -⟩ := hreg (.pulseWidth v) d hd
      exact ⟨hfirst hd hlo, hhi⟩
    · exact hfirst hd (hreg .filter d hd).1
    · exact hfirst hd (hreg .volume d hd).1

/-- Two different shadowed registers share no address (R8, R51, R63): for each pair, two intervals are
compared, those of one voice by their offsets, those of two voices by the stride. -/
theorem shadowReg_disjoint {p : Params} (hp : p.Admissible) {q r : ShadowReg} (h : q ≠ r) :
    q.base p + q.size ≤ r.base p ∨ r.base p + r.size ≤ q.base p := by
  obtain ⟨hfilter, hvolume, hne, -⟩ := hp
  have hne : p.addrFilter.toNat ≠ p.addrVolume.toNat := fun e => hne (BitVec.eq_of_toNat_eq e)
  cases q <;> cases r <;>
    simp only [ShadowReg.base, ShadowReg.size, ne_eq, ShadowReg.control.injEq,
      ShadowReg.envelope.injEq, ShadowReg.pulseWidth.injEq, not_true_eq_false, Fin.ext_iff] at h ⊢ <;>
    omega

/-- A shadowed register lies in the voice blocks or is one of the two global registers (R51, R52). -/
theorem shadowReg_span (p : Params) (r : ShadowReg) : r.base p + r.size ≤ 21 ∨
    (r.size = 1 ∧ (r.base p = p.addrFilter.toNat ∨ r.base p = p.addrVolume.toNat)) := by
  cases r with
  | control v | envelope v | pulseWidth v =>
    exact .inl (by have := v.isLt; simp only [ShadowReg.base, ShadowReg.size]; omega)
  | filter => exact .inr ⟨rfl, .inl rfl⟩
  | volume => exact .inr ⟨rfl, .inr rfl⟩

/-! What keeps the agreement. -/

/-- When nothing is known of the chip, shadow and chip agree. -/
theorem shadowConsistent_of_read_none {s : State} (h : ∀ a, s.chip.read a = none) :
    ShadowConsistent s := by
  refine (shadowConsistent_iff s).2 ⟨fun r d hd => ?_, fun a _ _ _ => h a⟩
  simp [h] at hd

/-- Rewriting one register whole from the new shadow keeps the agreement, if the shadow has changed in
that register alone (R67). -/
theorem rewrite_keeps_shadowConsistent {s t : State} (h : ShadowConsistent s) (hp : s.params.Admissible)
    (r : ShadowReg) (hparams : t.params = s.params)
    (hchip : t.chip = s.chip.writeFrom (r.base s.params) (r.bytes t))
    (hbytes : ∀ q, q ≠ r → q.bytes t = q.bytes s) : ShadowConsistent t := by
  obtain ⟨hreg, hothers⟩ := (shadowConsistent_iff s).1 h
  refine (shadowConsistent_iff t).2 ⟨fun q => ?_, fun a ha hf hv => ?_⟩
  · rw [hparams, hchip]
    by_cases hq : q = r
    · subst hq
      exact chip_agrees_writeFrom _ _ _
    · rw [hbytes q hq]
      refine chip_agrees_writeFrom_of_disjoint ?_ ?_ (hreg q)
      · simpa using shadowReg_size_pos q
      · simpa using shadowReg_disjoint hp hq
  · rw [hparams] at hf hv
    rw [hchip, chip_read_writeFrom_of_outside, hothers a ha hf hv]
    have := shadowReg_span s.params r
    simp only [shadowReg_bytes_length]
    omega

/-- The frequency registers, which the shadow does not determine, may be written freely. -/
theorem writeFrequency_keeps_shadowConsistent {s : State} (h : ShadowConsistent s)
    (hp : s.params.Admissible) (v : VoiceIdx) (w : FreqWord) :
    ShadowConsistent (writeFrequency v w s) := by
  obtain ⟨hreg, hothers⟩ := (shadowConsistent_iff s).1 h
  have hv := v.isLt
  have hchip : (writeFrequency v w s).chip =
      s.chip.writeFrom (7 * v.val) [freqLo w, freqHi w] := by
    simp [writeFrequency, regOffset]
  refine (shadowConsistent_iff _).2 ⟨fun q => ?_, fun a ha hf hg => ?_⟩
  · rw [hchip]
    refine chip_agrees_writeFrom_of_disjoint ?_ ?_ (hreg q)
    · simpa using shadowReg_size_pos q
    · obtain ⟨hfilter, hvolume, -⟩ := hp
      cases q <;> simp only [ShadowReg.base, ShadowReg.bytes, writeFrequency, busWrite_eq,
        emit_params, List.length_cons, List.length_nil] <;> omega
  · rw [hchip, chip_read_writeFrom_of_outside, hothers a ha hf hg]
    simp only [List.length_cons, List.length_nil]
    omega

theorem finish_keeps_shadowConsistent {s : State} (h : ShadowConsistent s) (c : ResultCode) :
    ShadowConsistent (finish c s) :=
  ⟨h.control, h.envelope, h.pulseWidth, h.filter, h.volume, h.others⟩

theorem takeWord_keeps_shadowConsistent {s : State} (h : ShadowConsistent s) :
    ShadowConsistent (takeWord s) :=
  ⟨h.control, h.envelope, h.pulseWidth, h.filter, h.volume, h.others⟩

/-! The shadowed bytes when one voice record changes. -/

/-- A part of the voice records that the new record shares with the old one is unchanged. -/
theorem setVoice_voice_proj {α : Type} (f : Voice → α) {u v : VoiceIdx} {x : Voice} {s : State}
    (h : u = v → f x = f (s.voice v)) : f ((setVoice v x s).voice u) = f (s.voice u) := by
  by_cases hu : u = v
  · simp [hu, h hu]
  · simp [hu]

/-- A register whose part of the voice record stays keeps its bytes. -/
theorem shadowReg_bytes_setVoice {q : ShadowReg} {v : VoiceIdx} {x : Voice} {s : State}
    (hcontrol : q = .control v → x.wave = (s.voice v).wave ∧ x.gate = (s.voice v).gate)
    (henvelope : q = .envelope v → x.adsr = (s.voice v).adsr)
    (hwidth : q = .pulseWidth v → x.pw = (s.voice v).pw)
    (hfilter : q = .filter → x.filt = (s.voice v).filt) :
    q.bytes (setVoice v x s) = q.bytes s := by
  cases q with
  | control u =>
    have hw : ((setVoice v x s).voice u).wave = (s.voice u).wave :=
      setVoice_voice_proj Voice.wave fun hu => (hcontrol (congrArg _ hu)).1
    have hg : ((setVoice v x s).voice u).gate = (s.voice u).gate :=
      setVoice_voice_proj Voice.gate fun hu => (hcontrol (congrArg _ hu)).2
    rw [ShadowReg.bytes, hw, hg, ShadowReg.bytes]
  | envelope u =>
    have he : ((setVoice v x s).voice u).adsr = (s.voice u).adsr :=
      setVoice_voice_proj Voice.adsr fun hu => henvelope (congrArg _ hu)
    rw [ShadowReg.bytes, he, ShadowReg.bytes]
  | pulseWidth u =>
    have hp : ((setVoice v x s).voice u).pw = (s.voice u).pw :=
      setVoice_voice_proj Voice.pw fun hu => hwidth (congrArg _ hu)
    rw [ShadowReg.bytes, hp, ShadowReg.bytes]
  | filter =>
    have hf (u : VoiceIdx) : ((setVoice v x s).voice u).filt = (s.voice u).filt :=
      setVoice_voice_proj Voice.filt fun _ => hfilter rfl
    rw [ShadowReg.bytes, hf, hf, hf, ShadowReg.bytes]
  | volume => rfl

end Sys2Proof.Machine
end

