-- ==== Sys2Proof/Proofs/Invariant.lean ====
section
/-! PROOF. What every step keeps: each part of the invariant over the effect of a command, and the step. -/

namespace Sys2Proof.Machine

/-! From the effect of a command to the step. -/

/-- What a completion, the taking of a word and the effect of every command keep, every step keeps. -/
theorem step_keeps (P : State → Prop) (hfinish : ∀ c s, P s → P (finish c s))
    (htake : ∀ s, P s → P (takeWord s)) (heffect : ∀ i v s, P s → P (effect i v s))
    (s s' : State) (hs : P s) (h : step s = .next s') : P s' := by
  rcases step_cases s with ⟨-, hstep⟩ | ⟨_, _, -, -, hstep⟩ | ⟨_, i, -, -, hstep⟩
  · cases hstep.symm.trans h
    exact hs
  · cases hstep.symm.trans h
    exact hfinish _ _ (htake s hs)
  · rcases exec_cases i (takeWord s) with ⟨-, v, -, hexec⟩ | ⟨-, hexec⟩
    · cases (hstep.trans hexec).symm.trans h
      exact heffect i v _ (htake s hs)
    · cases (hstep.trans hexec).symm.trans h
      exact hfinish _ _ (htake s hs)

/-- What the shared operations keep, the effect of every command keeps. A new voice record has the old
waveform or one of the four masks (R37). -/
theorem effect_keeps (P : State → Prop) (hfinish : ∀ c s, P s → P (finish c s))
    (hemit : ∀ e s, P s → P (emit e s)) (hvol4 : ∀ n s, P s → P (setVol4 n s))
    (hvoice : ∀ v x s, (x.wave = (s.voice v).wave ∨ ∃ w : Waveform, x.wave = w.mask) →
      P s → P (setVoice v x s))
    (i : Instr) (v : VoiceIdx) (s : State) (hs : P s) : P (effect i v s) := by
  cases i with
  | start => exact hfinish _ _ (hemit _ _ (hemit _ _ hs))
  | setVolume vol => exact hfinish _ _ (hemit _ _ (hvol4 _ _ hs))
  | setAdsr _ att dec sus rel =>
    exact hfinish _ _ (hemit _ _ (hemit _ _ (hvoice _ _ _ (.inl rfl) hs)))
  | setWaveform _ wave => exact hfinish _ _ (hemit _ _ (hvoice _ _ _ (.inr ⟨wave, rfl⟩) hs))
  | setPulseWidth _ width =>
    exact hfinish _ _ (hemit _ _ (hemit _ _ (hvoice _ _ _ (.inl rfl) hs)))
  | setFilterEnabled _ enabled => exact hfinish _ _ (hemit _ _ (hvoice _ _ _ (.inl rfl) hs))
  | playNote _ note velocity =>
    exact hfinish _ _ (hemit _ _ (hemit _ _ (hemit _ _ (hvoice _ _ _ (.inl rfl) hs))))

/-! The parts of the invariant over the effect of a command. -/

/-- R33, R50: the ghost chip changes by bus events alone. -/
theorem effect_keeps_chip_wf (i : Instr) (v : VoiceIdx) (s : State) (h : s.chip.wf = true) :
    (effect i v s).chip.wf = true :=
  effect_keeps (fun s => s.chip.wf = true) (fun _ _ h => h) (fun e s h => chip_wf_chipAfter e s.chip h)
    (fun _ _ h => h) (fun _ _ _ _ h => h) i v s h

/-- R33: the ghost chip hears every event that the trace gets. -/
theorem effect_keeps_chip_replay (i : Instr) (v : VoiceIdx) (s : State)
    (h : s.chip = chipOfTrace s.trace) : (effect i v s).chip = chipOfTrace (effect i v s).trace :=
  effect_keeps (fun s => s.chip = chipOfTrace s.trace) (fun _ _ h => h)
    (fun e s h => by rw [emit_chip, emit_trace, chipOfTrace_append, h])
    (fun _ _ h => h) (fun _ _ _ _ h => h) i v s h

/-- R21, R22: a new record must have a legal waveform of its own or the old one's. -/
theorem setVoice_keeps_waveLegal (v : VoiceIdx) (x : Voice) (s : State)
    (hx : x.wave = (s.voice v).wave ∨ ∃ w : Waveform, x.wave = w.mask)
    (h : ∀ u, waveLegal s.params (s.voice u)) (u : VoiceIdx) :
    waveLegal (setVoice v x s).params ((setVoice v x s).voice u) := by
  by_cases hu : u = v
  · rw [setVoice_params, setVoice_voice, if_pos hu]
    rcases hx with hold | hmask
    · simpa only [waveLegal, hold] using h v
    · exact .inr hmask
  · rw [setVoice_params, setVoice_voice, if_neg hu]
    exact h u

/-- R21, R22: `setWaveform` alone changes a waveform, to one of the four masks. -/
theorem effect_keeps_waveLegal (i : Instr) (v : VoiceIdx) (s : State)
    (h : ∀ u, waveLegal s.params (s.voice u)) (u : VoiceIdx) :
    waveLegal (effect i v s).params ((effect i v s).voice u) :=
  effect_keeps (fun s => ∀ u, waveLegal s.params (s.voice u)) (fun _ _ h => h) (fun _ _ h => h)
    (fun _ _ h => h) setVoice_keeps_waveLegal i v s h u

/-- R34: the effect of a command rewrites each register whose part of the shadow it changes. -/
theorem effect_keeps_shadowConsistent (i : Instr) (v : VoiceIdx) (s : State)
    (hp : s.params.Admissible) (h : ShadowConsistent s) : ShadowConsistent (effect i v s) := by
  cases i with
  | start => exact shadowConsistent_of_read_none fun _ => rfl
  | setVolume vol =>
    refine rewrite_keeps_shadowConsistent h hp .volume rfl rfl fun q hq => ?_
    cases q with
    | volume => exact absurd rfl hq
    | control u | envelope u | pulseWidth u | filter => rfl
  | setAdsr _ att dec sus rel =>
    refine rewrite_keeps_shadowConsistent h hp (.envelope v) rfl ?_ fun q hq => shadowReg_bytes_setVoice
      (fun _ => ⟨rfl, rfl⟩) (fun e => absurd e hq) (fun _ => rfl) (fun _ => rfl)
    simp [effect, writeEnvelope, regOffset, ShadowReg.base, ShadowReg.bytes]
  | setWaveform _ wave =>
    refine rewrite_keeps_shadowConsistent h hp (.control v) rfl ?_ fun q hq => shadowReg_bytes_setVoice
      (fun e => absurd e hq) (fun _ => rfl) (fun _ => rfl) (fun _ => rfl)
    simp [effect, writeControl, regOffset, ShadowReg.base, ShadowReg.bytes]
  | setPulseWidth _ width =>
    refine rewrite_keeps_shadowConsistent h hp (.pulseWidth v) rfl ?_ fun q hq => shadowReg_bytes_setVoice
      (fun _ => ⟨rfl, rfl⟩) (fun _ => rfl) (fun e => absurd e hq) (fun _ => rfl)
    simp [effect, writePulseWidth, regOffset, ShadowReg.base, ShadowReg.bytes]
  | setFilterEnabled _ enabled =>
    exact rewrite_keeps_shadowConsistent h hp .filter rfl rfl fun q hq => shadowReg_bytes_setVoice
      (fun _ => ⟨rfl, rfl⟩) (fun _ => rfl) (fun _ => rfl) (fun e => absurd e hq)
  | playNote _ note velocity =>
    refine rewrite_keeps_shadowConsistent
      (writeFrequency_keeps_shadowConsistent h hp v (noteToWord note)) hp (.control v) rfl ?_ fun q hq =>
      shadowReg_bytes_setVoice (s := writeFrequency v (noteToWord note) s)
        (fun e => absurd e hq) (fun _ => rfl) (fun _ => rfl) (fun _ => rfl)
    simp [effect, writeControl, writeFrequency, regOffset, ShadowReg.base, ShadowReg.bytes]

/-- R29, R30: a completion that leaves `err` at 0 ended with `OK`, whatever the status was before. -/
theorem finish_res_of_err_false (c : ResultCode) (s : State) (h : (finish c s).err = false) :
    (finish c s).res = 0 := by
  cases c with
  | ok => rfl
  | errVoice | errPw | errRange | errIllegal => cases h

/-! The whole invariant. -/

theorem finish_keeps_inv (c : ResultCode) (s : State) (h : Inv s) : Inv (finish c s) where
  params := h.params
  shadow := finish_keeps_shadowConsistent h.shadow c
  ghost := h.ghost
  chipForm := h.chipForm
  waves := h.waves
  codes := bits_le_four c
  clean := finish_res_of_err_false c s

theorem takeWord_keeps_inv (s : State) (h : Inv s) : Inv (takeWord s) where
  params := h.params
  shadow := takeWord_keeps_shadowConsistent h.shadow
  ghost := h.ghost
  chipForm := h.chipForm
  waves := h.waves
  codes := h.codes
  clean := h.clean

theorem effect_keeps_inv (i : Instr) (v : VoiceIdx) (s : State) (h : Inv s) : Inv (effect i v s) := by
  obtain ⟨hres, -, -, hparams⟩ := effect_frame i v s
  exact {
    params := hparams ▸ h.params
    shadow := effect_keeps_shadowConsistent i v s h.params h.shadow
    ghost := effect_keeps_chip_replay i v s h.ghost
    chipForm := effect_keeps_chip_wf i v s h.chipForm
    waves := effect_keeps_waveLegal i v s h.waves
    codes := by rw [hres]; decide
    clean := fun _ => hres }

/-- Settles O44: completions, the taking of a word and the effect of every command keep the invariant. -/
theorem stepKeepsTheInvariant : Obligations.StepKeepsTheInvariant :=
  step_keeps Inv finish_keeps_inv takeWord_keeps_inv effect_keeps_inv

/-- Settles O2: by the definitions, and R8's constraints checked on the three values. -/
theorem resetTakesTheDefaultParameters : Obligations.ResetTakesTheDefaultParameters :=
  ⟨rfl, by decide⟩

end Sys2Proof.Machine
end

section
/-! PROOF. The effect of a command field by field, and the events it emits as a function of the state it starts
from; the inversion of `exec`, `step` and `run`. -/

namespace Sys2Proof.Machine

/-! What an effect makes of the shadow and of the trace. -/

/-- The record that an accepted command makes of its voice's record (R21 to R26). -/
def newVoice (i : Instr) (x : Voice) : Voice :=
  match i with
  | .start | .setVolume _ => x
  | .setAdsr _ att dec sus rel =>
    { x with adsr := ⟨att.setWidth 4, dec.setWidth 4, sus.setWidth 4, rel.setWidth 4⟩ }
  | .setWaveform _ wave => { x with wave := wave.mask }
  | .setPulseWidth _ width => { x with pw := width.setWidth 12 }
  | .setFilterEnabled _ enabled => { x with filt := enabled }
  | .playNote _ _ velocity => { x with gate := velToGate velocity }

/-- The `vol4` that an accepted command leaves (R27). -/
def newVol4 (i : Instr) (n : Nibble) : Nibble :=
  match i with
  | .setVolume vol => scale4 vol
  | _ => n

/-- The events of an accepted command on voice `v` in state `s` (R141 to R147). -/
def eventsOf (i : Instr) (v : VoiceIdx) (s : State) : List BusEvent :=
  match i with
  | .start => [.startClock, .reset]
  | .setVolume vol => [.write s.params.addrVolume (volByte (scale4 vol))]
  | .setAdsr _ att dec sus rel =>
    [.write (voiceAddr v .ad) (att.setWidth 4 ++ dec.setWidth 4),
      .write (voiceAddr v .sr) (sus.setWidth 4 ++ rel.setWidth 4)]
  | .setWaveform _ wave => [.write (voiceAddr v .control) (ctrlByte wave.mask (s.voice v).gate)]
  | .setPulseWidth _ width =>
    [.write (voiceAddr v .pwLo) (pwLo (width.setWidth 12)),
      .write (voiceAddr v .pwHi) (pwHi (width.setWidth 12))]
  | .setFilterEnabled _ enabled =>
    [.write s.params.addrFilter (filtByte (if 0 = v then enabled else (s.voice 0).filt)
      (if 1 = v then enabled else (s.voice 1).filt) (if 2 = v then enabled else (s.voice 2).filt))]
  | .playNote _ note velocity =>
    [.write (voiceAddr v .freqLo) (freqLo (noteToWord note)),
      .write (voiceAddr v .freqHi) (freqHi (noteToWord note)),
      .write (voiceAddr v .control) (ctrlByte (s.voice v).wave (velToGate velocity))]

@[simp] theorem effect_voice (i : Instr) (v : VoiceIdx) (s : State) (u : VoiceIdx) :
    (effect i v s).voice u = if u = v then newVoice i (s.voice v) else s.voice u := by
  cases i with
  | start | setVolume vol =>
    by_cases hu : u = v
    · subst hu
      rw [if_pos rfl]
      rfl
    · rw [if_neg hu]
      rfl
  | setAdsr | setWaveform | setPulseWidth | setFilterEnabled | playNote => exact setVoice_voice ..

@[simp] theorem effect_vol4 (i : Instr) (v : VoiceIdx) (s : State) :
    (effect i v s).vol4 = newVol4 i s.vol4 := by
  cases i <;> rfl

@[simp] theorem effect_trace (i : Instr) (v : VoiceIdx) (s : State) :
    (effect i v s).trace = s.trace ++ eventsOf i v s := by
  cases i with
  | start | setVolume | setWaveform | setPulseWidth | playNote =>
    simp [effect, eventsOf, writeVolume, writeControl, writePulseWidth, writeFrequency]
  | setAdsr => simp [effect, eventsOf, writeEnvelope, adByte, srByte]
  | setFilterEnabled => simp [effect, eventsOf, writeFilter, apply_ite Voice.filt]

/-! The inversion of `exec`. -/

/-- An accepted command takes its effect on the voice that its operand names. -/
theorem exec_of_accepted {i : Instr} {v : VoiceIdx} (hok : firstFailure i = .ok)
    (hv : ∀ b, voiceOperand i = some b → b.toNat = v.val) (s : State) :
    exec i s = .next (effect i v s) := by
  rcases exec_cases i s with ⟨-, u, hu, hexec⟩ | ⟨hfail, -⟩
  · rw [hexec, effect_voice_unique i u v s hu hv]
  · exact absurd hok hfail

/-- A command with a failing check ends with the first one's code. -/
theorem exec_of_rejected {i : Instr} (hfail : firstFailure i ≠ .ok) (s : State) :
    exec i s = .next (finish (firstFailure i) s) := by
  rcases exec_cases i s with ⟨hok, -⟩ | ⟨-, hexec⟩
  · exact absurd hok hfail
  · exact hexec

/-- The two ways in which an execution ends. -/
theorem exec_next_cases {i : Instr} {s s' : State} (h : exec i s = .next s') :
    (firstFailure i = .ok ∧ ∃ v : VoiceIdx, (∀ b, voiceOperand i = some b → b.toNat = v.val) ∧
      s' = effect i v s) ∨
    (firstFailure i ≠ .ok ∧ s' = finish (firstFailure i) s) := by
  rcases exec_cases i s with ⟨hok, v, hv, hexec⟩ | ⟨hfail, hexec⟩
  · cases hexec.symm.trans h
    exact .inl ⟨hok, v, hv, rfl⟩
  · cases hexec.symm.trans h
    exact .inr ⟨hfail, rfl⟩

/-- No command writes the parameters or the host's side. -/
theorem exec_keeps_params_host {i : Instr} {s s' : State} (h : exec i s = .next s') :
    s'.params = s.params ∧ s'.host = s.host := by
  rcases exec_next_cases h with ⟨-, v, -, rfl⟩ | ⟨-, rfl⟩
  · obtain ⟨-, -, hhost, hparams⟩ := effect_frame i v s
    exact ⟨hparams, hhost⟩
  · exact ⟨rfl, rfl⟩

/-! The equations of `step`, and the inversion of a run. -/

theorem step_of_idle {s : State} (h : presented s = none) : step s = .next s := by
  simp only [step, h, idle]

theorem step_of_illegal {s : State} {w : CmdWord} {e : DecodeError} (h : presented s = some w)
    (hd : decode w = .error e) : step s = .next (finish .errIllegal (takeWord s)) := by
  simp only [step, h, hd, rejectIllegal, reject_eq]

theorem step_of_legal {s : State} {w : CmdWord} {i : Instr} (h : presented s = some w)
    (hd : decode w = .ok i) : step s = exec i (takeWord s) := by
  simp only [step, h, hd]

/-- A run of any machine that goes on for `k + 1` steps is a step and a run of `k` steps. -/
theorem core_run_succ {M : Host.Core} {k : Nat} {s s' : M.State} (h : M.run (k + 1) s = .next s') :
    ∃ t, M.step s = .next t ∧ M.run k t = .next s' := by
  rw [Host.Core.run] at h
  cases hq : M.step s with
  | next t =>
    rw [hq] at h
    exact ⟨t, rfl, h⟩
  | fault r | refused r =>
    rw [hq] at h
    cases h

/-- The events between two states, when the trace has grown by `ev`. -/
theorem emitted_of_trace_append {s s' : State} {ev : List BusEvent} (h : s'.trace = s.trace ++ ev) :
    emitted s s' = ev := by
  rw [emitted, h, List.drop_left]

end Sys2Proof.Machine
end

section
/-! PROOF. What every step keeps of the state, and what block reset starts from (R21, R22, R29, R33, R34,
R36). -/

namespace Sys2Proof.Machine

/-- Settles O42: an effect rewrites each register whose part of the shadow it changes, and completions and
the taking of a word touch neither shadow nor chip. -/
theorem stepKeepsShadowAndChipInAgreement : Obligations.StepKeepsShadowAndChipInAgreement := by
  intro s s' hp hs hstep
  refine step_keeps (fun s => s.params.Admissible ∧ ShadowConsistent s) ?_ ?_ ?_ s s' ⟨hp, hs⟩ hstep
  · exact fun c s ⟨hp, hs⟩ => ⟨hp, finish_keeps_shadowConsistent hs c⟩
  · exact fun s ⟨hp, hs⟩ => ⟨hp, takeWord_keeps_shadowConsistent hs⟩
  · intro i v s ⟨hp, hs⟩
    obtain ⟨-, -, -, hparams⟩ := effect_frame i v s
    exact ⟨hparams ▸ hp, effect_keeps_shadowConsistent i v s hp hs⟩

/-- Settles O45: the chip changes by bus events alone, and each keeps the canonical form. -/
theorem stepKeepsChipInCanonicalForm : Obligations.StepKeepsChipInCanonicalForm :=
  fun s s' hstep hwf => step_keeps (fun s => s.chip.wf = true) (fun _ _ h => h) (fun _ h => h)
    effect_keeps_chip_wf s s' hwf hstep

/-- Settles O46: the chip hears each event that the trace gets. -/
theorem stepKeepsChipTheReplayOfTheTrace : Obligations.StepKeepsChipTheReplayOfTheTrace :=
  fun s s' hstep hchip => step_keeps (fun s => s.chip = chipOfTrace s.trace) (fun _ _ h => h)
    (fun _ h => h) effect_keeps_chip_replay s s' hchip hstep

/-- Settles O22: every completion writes a legal code, `OK` if it leaves `err` at 0. -/
theorem stepKeepsStatusLegal : Obligations.StepKeepsStatusLegal := by
  intro s s' hstep hs
  refine step_keeps (fun s => s.res.toNat ≤ 4 ∧ (s.err = false → s.res = 0)) ?_ (fun _ h => h) ?_
    s s' hs hstep
  · exact fun c s _ => ⟨bits_le_four c, finish_res_of_err_false c s⟩
  · intro i v s _
    obtain ⟨hres, -, -, -⟩ := effect_frame i v s
    exact ⟨by rw [hres]; decide, fun _ => hres⟩

theorem mask_mem_masks (w : Waveform) : w.mask ∈ [0x80#8, 0x40#8, 0x20#8, 0x10#8] := by
  cases w <;> decide

/-- Settles O47: `setWaveform` writes one of the four masks, and no other command writes a waveform. -/
theorem stepKeepsWaveformsLegal : Obligations.StepKeepsWaveformsLegal := by
  refine ⟨fun s s' hstep hs => step_keeps (fun s => ∀ v, waveLegal s.params (s.voice v)) (fun _ _ h => h)
    (fun _ h => h) effect_keeps_waveLegal s s' hs hstep, fun b w v s s' hb hexec => ?_⟩
  have hlt : ¬ 2 < b.toNat := by omega
  have hok : firstFailure (.setWaveform b w) = .ok := if_neg hlt
  have hv : ∀ c, voiceOperand (.setWaveform b w) = some c → c.toNat = v.val := by
    rintro _ ⟨rfl⟩
    exact hb
  cases (exec_of_accepted hok hv s).symm.trans hexec
  rw [effect_voice, if_pos rfl]
  exact mask_mem_masks w

/-! Block reset. -/

/-- R36: whatever the host has to present, the reset state has the invariant. -/
theorem resetWith_host_meets_inv {p : Params} (hp : p.Admissible) (host : HostPort) :
    Inv { State.resetWith p with host := host } where
  params := hp
  shadow := shadowConsistent_of_read_none fun _ => rfl
  ghost := rfl
  chipForm := rfl
  waves v := .inl (congrArg Voice.wave (voice_resetWith p v))
  codes := Nat.zero_le 4
  clean _ := rfl

/-- Settles O1: by the definition of reset, the same for each voice. -/
theorem resetLeavesTheTableOfR36 : Obligations.ResetLeavesTheTableOfR36 := by
  intro p
  refine ⟨fun v => ?_, rfl, rfl, rfl, rfl, fun _ => rfl⟩
  rw [voice_resetWith]
  exact ⟨rfl, rfl, rfl, rfl, rfl⟩

/-- Settles O43: `State.reset` is the case of the default parameters, which are admissible. -/
theorem resetMeetsTheInvariant : Obligations.ResetMeetsTheInvariant :=
  have hreset (p : Params) (hp : p.Admissible) : Inv (State.resetWith p) :=
    resetWith_host_meets_inv hp ⟨[], 0⟩
  ⟨hreset, hreset defaultParams resetTakesTheDefaultParameters.2⟩

/-- Settles O48: the invariant holds at reset, and every step keeps it. -/
theorem everyReachableStateMeetsTheInvariant : Obligations.EveryReachableStateMeetsTheInvariant :=
  fun _ words k s' hp hrun =>
    run_keeps Inv stepKeepsTheInvariant k _ s' (resetWith_host_meets_inv hp ⟨words, 0⟩) hrun

end Sys2Proof.Machine
end

section
/-! PROOF. The ghost chip by itself: read after write, and what the bus trace alone says of it (R33, U13). -/

namespace Sys2Proof.Machine

/-- Settles O29: read after write, with and without a `Reset` before. -/
theorem chipReadAfterWrite : Obligations.ChipReadAfterWrite := by
  refine fun c a b d => ⟨fun hc hb => ?_, fun hb => chip_read_write_ne c hb d, fun hc => ?_⟩
  · rw [chip_read_write_of_ne_none hc, if_pos hb]
  · subst hc
    rfl

/-- R33, U13: the trace holds a write of `d` to `a` with a `Reset` before it, and neither a `Reset` nor another
write to `a` after it. -/
def LastWriteSinceReset (t : List BusEvent) (a : Addr) (d : Byte) : Prop :=
  ∃ before since, t = before ++ .write a d :: since ∧ .reset ∈ before ∧ .reset ∉ since ∧
    ∀ e, .write a e ∉ since

theorem not_lastWriteSinceReset_nil (a : Addr) (d : Byte) : ¬ LastWriteSinceReset [] a d := by
  rintro ⟨before, since, ht, -⟩
  simp at ht

/-- The last event of a trace is the write itself, or it leaves an earlier one standing. -/
theorem lastWriteSinceReset_append (t : List BusEvent) (e : BusEvent) (a : Addr) (d : Byte) :
    LastWriteSinceReset (t ++ [e]) a d ↔ (e = .write a d ∧ .reset ∈ t) ∨
      (e ≠ .reset ∧ (∀ x, e ≠ .write a x) ∧ LastWriteSinceReset t a d) := by
  constructor
  · rintro ⟨before, since, ht, hbefore, hreset, hwrite⟩
    rcases since.eq_nil_or_concat' with rfl | ⟨since, e', rfl⟩
    · obtain ⟨rfl, he⟩ := List.append_inj' ht rfl
      exact .inl ⟨List.singleton_inj.1 he, hbefore⟩
    · rw [← List.cons_append, ← List.append_assoc] at ht
      obtain ⟨rfl, he⟩ := List.append_inj' ht rfl
      obtain rfl := List.singleton_inj.1 he
      simp only [List.mem_append, List.mem_singleton, not_or] at hreset hwrite
      exact .inr ⟨Ne.symm hreset.2, fun x => Ne.symm (hwrite x).2, before, since, rfl, hbefore, hreset.1,
        fun x => (hwrite x).1⟩
  · rintro (⟨rfl, hreset⟩ | ⟨hreset, hwrite, before, since, rfl, hbefore, hreset', hwrite'⟩)
    · exact ⟨t, [], rfl, hreset, List.not_mem_nil, fun _ => List.not_mem_nil⟩
    · refine ⟨before, since ++ [e], by simp, hbefore, ?_, fun x => ?_⟩
      · simp [hreset', Ne.symm hreset]
      · simp [hwrite' x, Ne.symm (hwrite x)]

/-- The ghost chip, event by event from the last one back. -/
theorem chipOfTrace_read_eq_some (t : List BusEvent) (a : Addr) (d : Byte) :
    (chipOfTrace t).read a.toNat = some d ↔ LastWriteSinceReset t a d := by
  induction t using List.reverseRecOn with
  | nil => simp [not_lastWriteSinceReset_nil]
  | append_singleton t e ih =>
    rw [chipOfTrace_append, lastWriteSinceReset_append]
    cases e with
    | startClock => simp [ih]
    | reset => simp
    | write b x =>
      rw [chipAfter_write]
      by_cases hab : a = b
      · subst hab
        by_cases hreset : .reset ∈ t
        · have hchip : chipOfTrace t ≠ none := mt (chipOfTrace_eq_none t).1 (not_not_intro hreset)
          simp [chip_read_write_of_ne_none hchip, hreset]
        · simp [(chipOfTrace_eq_none t).2 hreset, hreset]
      · rw [chip_read_write_ne _ (mt BitVec.eq_of_toNat_eq hab), ih]
        simp [Ne.symm hab]

/-- Settles O30: `LastWriteSinceReset` is the statement's right-hand side. -/
theorem chipIsTheLastWriteAfterTheLastReset : Obligations.ChipIsTheLastWriteAfterTheLastReset :=
  chipOfTrace_read_eq_some

end Sys2Proof.Machine
end

section
/-! PROOF. Which command writes which field (R22 to R27, R37). -/

namespace Sys2Proof.Machine

/-! Which command makes a new record differ from the old one in a field. -/

theorem newVoice_wave_ne {i : Instr} {x : Voice} (h : (newVoice i x).wave ≠ x.wave) :
    ∃ b w, i = .setWaveform b w := by
  cases i with
  | setWaveform b w => exact ⟨b, w, rfl⟩
  | _ => exact absurd rfl h

theorem newVoice_gate_ne {i : Instr} {x : Voice} (h : (newVoice i x).gate ≠ x.gate) :
    ∃ b n vel, i = .playNote b n vel := by
  cases i with
  | playNote b n vel => exact ⟨b, n, vel, rfl⟩
  | _ => exact absurd rfl h

theorem newVoice_adsr_ne {i : Instr} {x : Voice} (h : (newVoice i x).adsr ≠ x.adsr) :
    ∃ b a d su r, i = .setAdsr b a d su r := by
  cases i with
  | setAdsr b a d su r => exact ⟨b, a, d, su, r, rfl⟩
  | _ => exact absurd rfl h

theorem newVoice_pw_ne {i : Instr} {x : Voice} (h : (newVoice i x).pw ≠ x.pw) :
    ∃ b w, i = .setPulseWidth b w := by
  cases i with
  | setPulseWidth b w => exact ⟨b, w, rfl⟩
  | _ => exact absurd rfl h

theorem newVoice_filt_ne {i : Instr} {x : Voice} (h : (newVoice i x).filt ≠ x.filt) :
    ∃ b f, i = .setFilterEnabled b f := by
  cases i with
  | setFilterEnabled b f => exact ⟨b, f, rfl⟩
  | _ => exact absurd rfl h

theorem newVol4_ne {i : Instr} {n : Nibble} (h : newVol4 i n ≠ n) : ∃ vol, i = .setVolume vol := by
  cases i with
  | setVolume vol => exact ⟨vol, rfl⟩
  | _ => exact absurd rfl h

/-- A part of a voice record that an effect changes is on the effect's own voice. -/
theorem effect_voice_ne {α : Type} (f : Voice → α) {i : Instr} {v u : VoiceIdx} {s : State}
    (h : f ((effect i v s).voice u) ≠ f (s.voice u)) :
    u = v ∧ f (newVoice i (s.voice u)) ≠ f (s.voice u) := by
  by_cases hu : u = v
  · subst hu
    exact ⟨rfl, by simpa using h⟩
  · exact absurd (by simp [hu]) h

/-- Settles O27: a rejected command changes status alone; an accepted one changes its own voice's record as
`newVoice` says, and `vol4` as `newVol4` says. -/
theorem eachFieldIsWrittenOnlyByItsCommand : Obligations.EachFieldIsWrittenOnlyByItsCommand := by
  intro i s s' hexec
  obtain ⟨hparams, hhost⟩ := exec_keeps_params_host hexec
  refine ⟨hparams, hhost, ?_⟩
  rcases exec_next_cases hexec with ⟨-, v, hv, rfl⟩ | ⟨hfail, rfl⟩
  · obtain ⟨-, herr, -, -⟩ := effect_frame i v s
    refine ⟨fun u => ⟨fun h => ?_, fun h => ?_, fun h => ?_, fun h => ?_, fun h => ?_⟩,
      fun h => newVol4_ne (effect_vol4 i v s ▸ h), fun h => absurd herr h⟩
    · obtain ⟨rfl, hne⟩ := effect_voice_ne Voice.wave h
      obtain ⟨b, w, rfl⟩ := newVoice_wave_ne hne
      exact ⟨b, w, rfl, hv b rfl⟩
    · obtain ⟨rfl, hne⟩ := effect_voice_ne Voice.gate h
      obtain ⟨b, n, vel, rfl⟩ := newVoice_gate_ne hne
      exact ⟨b, n, vel, rfl, hv b rfl⟩
    · obtain ⟨rfl, hne⟩ := effect_voice_ne Voice.adsr h
      obtain ⟨b, a, d, su, r, rfl⟩ := newVoice_adsr_ne hne
      exact ⟨b, a, d, su, r, rfl, hv b rfl⟩
    · obtain ⟨rfl, hne⟩ := effect_voice_ne Voice.pw h
      obtain ⟨b, w, rfl⟩ := newVoice_pw_ne hne
      exact ⟨b, w, rfl, hv b rfl⟩
    · obtain ⟨rfl, hne⟩ := effect_voice_ne Voice.filt h
      obtain ⟨b, f, rfl⟩ := newVoice_filt_ne hne
      exact ⟨b, f, rfl, hv b rfl⟩
  · exact ⟨fun u => ⟨absurd rfl, absurd rfl, absurd rfl, absurd rfl, absurd rfl⟩, absurd rfl,
      fun _ => hfail⟩

end Sys2Proof.Machine
end

section
/-! PROOF. What a command reads: parameters, waveforms, gates and filter flags, and nothing else of the state
(R24, R25, R27, R37). -/

namespace Sys2Proof.Machine

/-! One effect from two states that agree on what is read. -/

/-- The same events: every byte comes from the operands and the state that is read. -/
theorem eventsOf_of_sameReadState {s t : State} (h : sameReadState s t) (i : Instr) (v : VoiceIdx) :
    eventsOf i v s = eventsOf i v t := by
  obtain ⟨hparams, hvoices⟩ := h
  obtain ⟨hwave, hgate, -⟩ := hvoices v
  have hfilt (u : VoiceIdx) : (s.voice u).filt = (t.voice u).filt := (hvoices u).2.2
  cases i <;> simp only [eventsOf, hparams, hwave, hgate, hfilt]

theorem newVoice_sameRead (i : Instr) {x y : Voice}
    (h : x.wave = y.wave ∧ x.gate = y.gate ∧ x.filt = y.filt) :
    (newVoice i x).wave = (newVoice i y).wave ∧ (newVoice i x).gate = (newVoice i y).gate ∧
      (newVoice i x).filt = (newVoice i y).filt := by
  obtain ⟨hwave, hgate, hfilt⟩ := h
  cases i <;> simp only [newVoice, hwave, hgate, hfilt, and_self]

/-- The agreement goes on. -/
theorem effect_keeps_sameReadState {s t : State} (h : sameReadState s t) (i : Instr) (v : VoiceIdx) :
    sameReadState (effect i v s) (effect i v t) := by
  obtain ⟨hparams, hvoices⟩ := h
  obtain ⟨-, -, -, hs⟩ := effect_frame i v s
  obtain ⟨-, -, -, ht⟩ := effect_frame i v t
  refine ⟨hs.trans (hparams.trans ht.symm), fun u => ?_⟩
  rw [effect_voice, effect_voice]
  by_cases hu : u = v
  · rw [if_pos hu, if_pos hu]
    exact newVoice_sameRead i (hvoices v)
  · rw [if_neg hu, if_neg hu]
    exact hvoices u

/-- The envelope of a new record is the command's, or as it was. -/
theorem newVoice_adsr_eq_or_same (i : Instr) (x y : Voice) :
    (newVoice i x).adsr = (newVoice i y).adsr ∨
      (newVoice i x).adsr = x.adsr ∧ (newVoice i y).adsr = y.adsr := by
  cases i with
  | setAdsr => exact .inl rfl
  | _ => exact .inr ⟨rfl, rfl⟩

/-- So is its pulse width. -/
theorem newVoice_pw_eq_or_same (i : Instr) (x y : Voice) :
    (newVoice i x).pw = (newVoice i y).pw ∨
      (newVoice i x).pw = x.pw ∧ (newVoice i y).pw = y.pw := by
  cases i with
  | setPulseWidth => exact .inl rfl
  | _ => exact .inr ⟨rfl, rfl⟩

/-- And the master volume. -/
theorem newVol4_eq_or_same (i : Instr) (m n : Nibble) :
    newVol4 i m = newVol4 i n ∨ newVol4 i m = m ∧ newVol4 i n = n := by
  cases i with
  | setVolume => exact .inl rfl
  | _ => exact .inr ⟨rfl, rfl⟩

/-- A part of the records that a command sets from its operands or leaves: so it is of every voice, since the
other voices' records stay. -/
theorem effect_voice_eq_or_same {α : Type} (f : Voice → α) (i : Instr) (v : VoiceIdx) (s t : State)
    (hnew : ∀ x y, f (newVoice i x) = f (newVoice i y) ∨ f (newVoice i x) = f x ∧ f (newVoice i y) = f y)
    (u : VoiceIdx) : f ((effect i v s).voice u) = f ((effect i v t).voice u) ∨
      f ((effect i v s).voice u) = f (s.voice u) ∧ f ((effect i v t).voice u) = f (t.voice u) := by
  rw [effect_voice, effect_voice]
  by_cases hu : u = v
  · subst hu
    simpa only [if_true] using hnew (s.voice u) (t.voice u)
  · simp only [if_neg hu, and_self, or_true]

/-! One execution, one step and one run of two machines that agree on what is read. -/

/-- One execution: both traces grow by the same events, and the agreement goes on. -/
theorem exec_of_sameReadState {i : Instr} {s t s' t' : State} (h : sameReadState s t)
    (hs : exec i s = .next s') (ht : exec i t = .next t') :
    (∃ ev, s'.trace = s.trace ++ ev ∧ t'.trace = t.trace ++ ev) ∧ sameReadState s' t' := by
  rcases exec_next_cases hs with ⟨hok, v, hv, rfl⟩ | ⟨hfail, rfl⟩
  · cases (exec_of_accepted hok hv t).symm.trans ht
    refine ⟨⟨eventsOf i v s, effect_trace i v s, ?_⟩, effect_keeps_sameReadState h i v⟩
    rw [effect_trace, eventsOf_of_sameReadState h]
  · cases (exec_of_rejected hfail t).symm.trans ht
    exact ⟨⟨[], by simp⟩, h⟩

/-- Settles O39: an accepted command has the same effect on what is read and writes what is not read from its
operands; a rejected one sets status alone, from its operands. -/
theorem commandsReadOnlyWaveGateAndFilter : Obligations.CommandsReadOnlyWaveGateAndFilter := by
  intro i s t s' t' h hs ht
  obtain ⟨⟨ev, hsev, htev⟩, hsame⟩ := exec_of_sameReadState h hs ht
  refine ⟨(emitted_of_trace_append hsev).trans (emitted_of_trace_append htev).symm, ?_⟩
  rcases exec_next_cases hs with ⟨hok, v, hv, rfl⟩ | ⟨hfail, rfl⟩
  · cases (exec_of_accepted hok hv t).symm.trans ht
    obtain ⟨hsres, hserr, -, -⟩ := effect_frame i v s
    obtain ⟨htres, hterr, -, -⟩ := effect_frame i v t
    refine ⟨hsres.trans htres.symm, hsame, fun u => ⟨?_, ?_⟩, ?_, .inr ⟨hserr, hterr⟩⟩
    · exact effect_voice_eq_or_same Voice.adsr i v s t (newVoice_adsr_eq_or_same i) u
    · exact effect_voice_eq_or_same Voice.pw i v s t (newVoice_pw_eq_or_same i) u
    · rw [effect_vol4, effect_vol4]
      exact newVol4_eq_or_same i s.vol4 t.vol4
  · cases (exec_of_rejected hfail t).symm.trans ht
    refine ⟨rfl, hsame, fun u => ⟨.inr ⟨rfl, rfl⟩, .inr ⟨rfl, rfl⟩⟩, .inr ⟨rfl, rfl⟩, .inl ?_⟩
    rw [finish_err, finish_err, errAfter_of_ne_ok hfail, errAfter_of_ne_ok hfail]

/-- One step of two machines that are given the same words. -/
theorem step_of_sameReadState {s t s' t' : State} (h : sameReadState s t)
    (hwords : s.host.pending = t.host.pending) (hs : step s = .next s') (ht : step t = .next t') :
    (∃ ev, s'.trace = s.trace ++ ev ∧ t'.trace = t.trace ++ ev) ∧ sameReadState s' t' ∧
      s'.host.pending = t'.host.pending := by
  have hpresented : presented t = presented s := congrArg List.head? hwords.symm
  have htail : (takeWord s).host.pending = (takeWord t).host.pending := congrArg List.tail hwords
  cases hp : presented s with
  | none =>
    cases (step_of_idle hp).symm.trans hs
    cases (step_of_idle (hpresented.trans hp)).symm.trans ht
    exact ⟨⟨[], by simp⟩, h, hwords⟩
  | some w =>
    cases hd : decode w with
    | error e =>
      cases (step_of_illegal hp hd).symm.trans hs
      cases (step_of_illegal (hpresented.trans hp) hd).symm.trans ht
      exact ⟨⟨[], by simp⟩, h, htail⟩
    | ok i =>
      rw [step_of_legal hp hd] at hs
      rw [step_of_legal (hpresented.trans hp) hd] at ht
      obtain ⟨hev, hsame⟩ := exec_of_sameReadState (s := takeWord s) (t := takeWord t) h hs ht
      refine ⟨hev, hsame, ?_⟩
      rw [(exec_keeps_params_host hs).2, (exec_keeps_params_host ht).2]
      exact htail

/-- Settles O40: from `step_of_sameReadState`. -/
theorem stepsOfAgreeingMachinesAgree : Obligations.StepsOfAgreeingMachinesAgree := by
  intro s t s' t' h hwords hs ht
  obtain ⟨⟨ev, hsev, htev⟩, hsame, hrest⟩ := step_of_sameReadState h hwords hs ht
  exact ⟨(emitted_of_trace_append hsev).trans (emitted_of_trace_append htev).symm, hsame, hrest⟩

/-- A run: the events of its first step, then those of the rest. -/
theorem run_of_sameReadState {k : Nat} {s t s' t' : State} (h : sameReadState s t)
    (hwords : s.host.pending = t.host.pending) (hs : Sys2Proof.core.run k s = .next s')
    (ht : Sys2Proof.core.run k t = .next t') :
    ∃ ev, s'.trace = s.trace ++ ev ∧ t'.trace = t.trace ++ ev := by
  induction k generalizing s t with
  | zero =>
    cases hs
    cases ht
    exact ⟨[], by simp⟩
  | succ k ih =>
    obtain ⟨s₁, hs₁, hs⟩ := core_run_succ hs
    obtain ⟨t₁, ht₁, ht⟩ := core_run_succ ht
    obtain ⟨⟨ev, hsev, htev⟩, hsame, hrest⟩ := step_of_sameReadState h hwords hs₁ ht₁
    obtain ⟨ev', hsev', htev'⟩ := ih hsame hrest hs ht
    exact ⟨ev ++ ev', by rw [hsev', hsev, List.append_assoc], by rw [htev', htev, List.append_assoc]⟩

/-- Settles O41: from `run_of_sameReadState`. -/
theorem unreadStateNeverReachesTheBus : Obligations.UnreadStateNeverReachesTheBus := by
  intro k s t s' t' h hwords hs ht
  obtain ⟨ev, hsev, htev⟩ := run_of_sameReadState h hwords hs ht
  exact (emitted_of_trace_append hsev).trans (emitted_of_trace_append htev).symm

end Sys2Proof.Machine
end

section
/-! PROOF. What an accepted command makes of the chip: the chip hears the command's events, a write leaves every
other byte, and a composite register holds the byte written to it last (R52, R65, R67, R151). -/

namespace Sys2Proof.Machine

/-! The events of a command: how many there are, and the addresses they write. -/

/-- R151: an effect emits the events counted there. -/
@[simp] theorem eventsOf_length (i : Instr) (v : VoiceIdx) (s : State) :
    (eventsOf i v s).length = eventCount i := by
  cases i <;> rfl

theorem eventCount_le_three (i : Instr) : eventCount i ≤ 3 := by
  cases i <;> simp [eventCount]

/-- The address that an event writes, if it is a write. -/
def BusEvent.writeAddress : BusEvent → Option Nat
  | .startClock | .reset => none
  | .write a _ => some a.toNat

/-- R52, R151: the events of a command write to its stored addresses, in their order. -/
theorem eventsOf_writeAddress {i : Instr} {v : VoiceIdx} (s : State)
    (hv : ∀ b, voiceOperand i = some b → b.toNat = v.val) :
    (eventsOf i v s).filterMap BusEvent.writeAddress = storedAddresses s.params i := by
  cases i with
  | start | setVolume | setFilterEnabled => rfl
  | setAdsr b | setWaveform b | setPulseWidth b | playNote b =>
    simp [eventsOf, BusEvent.writeAddress, storedAddresses, regOffset, hv b rfl]

/-- R141: `start` alone resets the chip. -/
theorem reset_mem_eventsOf_iff (i : Instr) (v : VoiceIdx) (s : State) :
    .reset ∈ eventsOf i v s ↔ i = .start := by
  cases i <;> simp [eventsOf]

/-! The chip after a list of events. -/

/-- The ghost chip after it has heard `t`, from any chip (R33); `chipOfTrace` is the case of the unknown chip. -/
def Chip.hear (c : Chip) (t : List BusEvent) : Chip := t.foldl (fun c e => chipAfter e c) c

@[simp] theorem chip_hear_nil (c : Chip) : c.hear [] = c := rfl

@[simp] theorem chip_hear_cons (c : Chip) (e : BusEvent) (t : List BusEvent) :
    c.hear (e :: t) = Chip.hear (chipAfter e c) t := rfl

@[simp] theorem chip_hear_append (c : Chip) (t u : List BusEvent) :
    c.hear (t ++ u) = (c.hear t).hear u := List.foldl_append

/-- Events without a `Reset` leave every byte that they do not write. -/
theorem chip_read_hear_of_not_written {t : List BusEvent} {a : Nat} (c : Chip) (hreset : .reset ∉ t)
    (ha : a ∉ t.filterMap BusEvent.writeAddress) : (c.hear t).read a = c.read a := by
  induction t generalizing c with
  | nil => rfl
  | cons e t ih =>
    have hreset' : .reset ∉ t := mt (List.mem_cons_of_mem e) hreset
    cases e with
    | startClock => exact ih c hreset' ha
    | reset => exact absurd List.mem_cons_self hreset
    | write b d =>
      have hmem : ¬ (a = b.toNat ∨ a ∈ t.filterMap BusEvent.writeAddress) := mt List.mem_cons.2 ha
      rw [not_or] at hmem
      rw [chip_hear_cons, chipAfter_write, ih _ hreset' hmem.2, chip_read_write_ne c hmem.1]

/-- R33: the chip hears the events that an effect puts on the trace. -/
@[simp] theorem effect_chip (i : Instr) (v : VoiceIdx) (s : State) :
    (effect i v s).chip = s.chip.hear (eventsOf i v s) := by
  obtain ⟨ev, htrace, hchip⟩ := effect_keeps
    (fun t => ∃ ev, t.trace = s.trace ++ ev ∧ t.chip = s.chip.hear ev) (fun _ _ h => h)
    (fun e t ⟨ev, htrace, hchip⟩ => ⟨ev ++ [e], by simp [htrace], by simp [hchip]⟩)
    (fun _ _ h => h) (fun _ _ _ _ h => h) i v s ⟨[], by simp, rfl⟩
  rw [effect_trace] at htrace
  rw [hchip, List.append_cancel_left htrace]

/-- Settles O28: a command other than `start` has no `Reset` among its events, and they write to its stored
addresses alone; a rejected command does not touch the chip. -/
theorem onlyTheStoredBytesOfTheChipChange : Obligations.OnlyTheStoredBytesOfTheChipChange := by
  refine fun i s s' hexec => ⟨fun hi a ha => ?_, fun hi a => ?_⟩
  · rcases exec_next_cases hexec with ⟨-, v, hv, rfl⟩ | ⟨-, rfl⟩
    · rw [effect_chip]
      exact chip_read_hear_of_not_written _ (mt (reset_mem_eventsOf_iff i v s).1 hi)
        (eventsOf_writeAddress s hv ▸ ha)
    · rfl
  · subst hi
    cases hexec
    rfl

/-! The trace. -/

theorem exec_trace_append {i : Instr} {s s' : State} (h : exec i s = .next s') :
    ∃ ev, s'.trace = s.trace ++ ev ∧ ev.length ≤ 3 := by
  rcases exec_next_cases h with ⟨-, v, -, rfl⟩ | ⟨-, rfl⟩
  · exact ⟨_, effect_trace i v s, eventsOf_length i v s ▸ eventCount_le_three i⟩
  · exact ⟨[], (List.append_nil _).symm, Nat.zero_le 3⟩

/-- Settles O35: an idle step and an illegal word emit nothing, and a command appends its events. -/
theorem traceOnlyGrows : Obligations.TraceOnlyGrows := by
  intro s s' h
  rcases step_cases s with ⟨-, hstep⟩ | ⟨_, _, -, -, hstep⟩ | ⟨_, i, -, -, hstep⟩
  · cases hstep.symm.trans h
    exact ⟨[], (List.append_nil _).symm, Nat.zero_le 3⟩
  · cases hstep.symm.trans h
    exact ⟨[], (List.append_nil _).symm, Nat.zero_le 3⟩
  · exact exec_trace_append (s := takeWord s) (hstep.symm.trans h)

/-! The composite registers. -/

theorem ctrlByte_eq_or_ite (wave : Byte) (gate : Bool) :
    ctrlByte wave gate = wave ||| if gate then 1 else 0 := by
  cases gate <;> rfl

theorem filtByte_eq_sum (f0 f1 f2 : Bool) : filtByte f0 f1 f2 =
    BitVec.ofNat 8 ((if f0 then 1 else 0) + (if f1 then 2 else 0) + (if f2 then 4 else 0)) := by
  revert f0 f1 f2
  decide

/-- R67: once the chip was reset, the control register holds waveform and gate whole, whatever it held. -/
theorem writeControl_chip_read {s : State} (hchip : s.chip ≠ none) (v : VoiceIdx) :
    (writeControl v s).chip.read (7 * v.val + 4) =
      some ((s.voice v).wave ||| if (s.voice v).gate then 1 else 0) := by
  simp [writeControl, regOffset, chip_read_write_of_ne_none hchip, ctrlByte_eq_or_ite]

/-- R67: once the chip was reset, the filter register holds all three flags, whatever it held. -/
theorem writeFilter_chip_read {s : State} (hchip : s.chip ≠ none) :
    (writeFilter s).chip.read s.params.addrFilter.toNat =
      some (BitVec.ofNat 8 ((if (s.voice 0).filt then 1 else 0) + (if (s.voice 1).filt then 2 else 0) +
        (if (s.voice 2).filt then 4 else 0))) := by
  simp [writeFilter, chip_read_write_of_ne_none hchip, filtByte_eq_sum]

/-- `exec_of_accepted` for a command with a voice operand. -/
theorem exec_of_accepted_voice {i : Instr} {b : Byte} {v : VoiceIdx} (hok : firstFailure i = .ok)
    (hop : voiceOperand i = some b) (hb : b.toNat = v.val) (s : State) :
    exec i s = .next (effect i v s) :=
  exec_of_accepted hok (fun _ hc => Option.some.inj (hop.symm.trans hc) ▸ hb) s

/-- Settles O37: each of the three commands ends by rewriting its composite register, from the shadow it leaves. -/
theorem compositeRegistersComeFromTheShadow : Obligations.CompositeRegistersComeFromTheShadow := by
  intro i s s' hchip hexec hok
  refine ⟨fun b v hb hi => ?_, ?_⟩
  · rcases hi with ⟨w, rfl⟩ | ⟨n, vel, rfl⟩
    · cases (exec_of_accepted_voice hok rfl hb s).symm.trans hexec
      exact writeControl_chip_read (s := setVoice v _ s) hchip v
    · cases (exec_of_accepted_voice hok rfl hb s).symm.trans hexec
      refine writeControl_chip_read (s := writeFrequency v (noteToWord n) (setVoice v _ s)) ?_ v
      simpa [writeFrequency] using hchip
  · rintro ⟨b, f, rfl⟩
    rcases exec_next_cases hexec with ⟨-, v, -, rfl⟩ | ⟨hfail, -⟩
    · exact writeFilter_chip_read (s := setVoice v _ s) hchip
    · exact absurd hok hfail

end Sys2Proof.Machine
end

section
/-! PROOF. The register map and the data bytes by themselves (R51, R53 to R59). -/

namespace Sys2Proof.Machine

/-! Addresses of voice registers. -/

theorem regOffset_lt (r : VoiceReg) : regOffset r < voiceStride := by
  cases r <;> decide

theorem regOffset_injective : Function.Injective regOffset := by
  intro r q
  cases r <;> cases q <;> decide

/-- R51, R63: an address is of one voice and one register. -/
theorem voiceAddr_inj {v u : VoiceIdx} {r q : VoiceReg} (h : voiceAddr v r = voiceAddr u q) :
    v = u ∧ r = q := by
  have hnat : 7 * v.val + regOffset r = 7 * u.val + regOffset q := by
    rw [← voiceAddr_toNat, ← voiceAddr_toNat, h]
  by_contra hne
  have hne' : v ≠ u ∨ regOffset r ≠ regOffset q :=
    (not_and_or.1 hne).imp id fun hr => regOffset_injective.ne hr
  exact regAddr_ne v u (regOffset_lt r) (regOffset_lt q) hne' hnat

/-- Settles O33: the address is `7 * v + offset`, and an offset is below the stride. -/
theorem voiceAddressesAreDistinct : Obligations.VoiceAddressesAreDistinct := by
  refine ⟨fun v => ?_, fun v r => ?_, fun v r u q => voiceAddr_inj⟩
  · simp only [voiceAddr_toNat, regOffset, Nat.add_zero, and_self]
  · rw [voiceAddr_toNat]
    exact voiceAddr_le v r

/-! Data bytes. -/

/-- Two nibbles side by side: the first in bits 7:4, the second in 3:0. -/
theorem append_nibbles_layout (hi lo : Nibble) :
    (hi ++ lo).extractLsb' 4 4 = hi ∧ (hi ++ lo).extractLsb' 0 4 = lo :=
  ⟨BitVec.extractLsb'_append_eq_left, BitVec.extractLsb'_append_eq_right⟩

/-- A nibble extended by zeros is the pair of 0 and the nibble. -/
theorem zext_nibble_layout (n : Nibble) :
    (n.setWidth 8).extractLsb' 0 4 = n ∧ (n.setWidth 8).extractLsb' 4 4 = 0 := by
  have hzext : n.setWidth 8 = 0#4 ++ n := BitVec.setWidth_eq_append (by decide)
  rw [hzext]
  exact (append_nibbles_layout 0 n).symm

/-- R55, R56: no waveform value that a field can hold reaches below bit 4, where the gate stands in bit 0. -/
theorem ctrlByte_layout : ∀ m ∈ [0x00#8, 0x10#8, 0x20#8, 0x40#8, 0x80#8], ∀ g : Bool,
    (ctrlByte m g).extractLsb' 1 3 = 0 ∧ (ctrlByte m g).getLsbD 0 = g ∧
      (ctrlByte m g).extractLsb' 4 4 = m.extractLsb' 4 4 := by
  decide

/-- R58: the flag of voice `i` stands in bit `i`. -/
theorem filtByte_layout : ∀ f0 f1 f2 : Bool, (filtByte f0 f1 f2).getLsbD 0 = f0 ∧
    (filtByte f0 f1 f2).getLsbD 1 = f1 ∧ (filtByte f0 f1 f2).getLsbD 2 = f2 ∧
    (filtByte f0 f1 f2).extractLsb' 3 5 = 0 := by
  decide

/-- Settles O38: volume and pulse-width high are nibbles extended by zeros, AD and SR are pairs of nibbles. -/
theorem dataByteLayouts : Obligations.DataByteLayouts := by
  refine ⟨fun m g hm => ctrlByte_layout m hm g, rfl, rfl, rfl, rfl, filtByte_layout,
    fun n => zext_nibble_layout n, fun p => ⟨rfl, zext_nibble_layout _⟩, fun e => ?_,
    fun w => ⟨rfl, rfl⟩⟩
  obtain ⟨hatt, hdec⟩ := append_nibbles_layout e.att e.dec
  obtain ⟨hsus, hrel⟩ := append_nibbles_layout e.sus e.rel
  exact ⟨hatt, hdec, hsus, hrel⟩

end Sys2Proof.Machine
end

section
/-! PROOF. The bits of a command word: the payloads as runs of adjacent fields (R85 to R91), and what a mask over
a word says of its fields (spec/opcode_table.json). -/

namespace Sys2Proof

/-! Payloads: each run of bits is an operand, or is 0 where no operand uses it. -/

theorem extractLsb'_extractLsb' {w start len start' len' : Nat} (x : BitVec w) (h : start' + len' ≤ len) :
    (x.extractLsb' start len).extractLsb' start' len' = x.extractLsb' (start + start') len' := by
  ext i hi
  have hlt : start' + i < len := by omega
  simp [hlt, Nat.add_assoc]

theorem eq_append_iff {m n : Nat} (x : BitVec (m + n)) (hi : BitVec m) (lo : BitVec n) :
    x = hi ++ lo ↔ x.extractLsb' n m = hi ∧ x.extractLsb' 0 n = lo := by
  constructor
  · rintro rfl
    exact ⟨BitVec.extractLsb'_append_eq_left, BitVec.extractLsb'_append_eq_right⟩
  · rintro ⟨rfl, rfl⟩
    exact BitVec.extractLsb'_append_extractLsb'.symm

/-- A payload that is one operand, extended by zeros (R86, R88, R89). -/
theorem eq_setWidth_iff {m n : Nat} (x : BitVec (m + n)) (lo : BitVec n) :
    x = lo.setWidth (m + n) ↔ x.extractLsb' n m = 0 ∧ x.extractLsb' 0 n = lo := by
  have hzext : lo.setWidth (m + n) = 0#m ++ lo := by
    ext i hi
    simp only [BitVec.getElem_setWidth, BitVec.getElem_append, BitVec.getElem_zero]
    split
    · exact BitVec.getLsbD_eq_getElem _
    · exact BitVec.getLsbD_of_ge _ _ (by omega)
  rw [hzext]
  exact eq_append_iff x 0 lo

/-- The payload of `setAdsr` is its four bytes (R87). -/
theorem eq_adsrPayload_iff (x : BitVec 32) (att dec sus rel : Byte) :
    x = att.setWidth 32 <<< 24 ||| dec.setWidth 32 <<< 16 ||| sus.setWidth 32 <<< 8 ||| rel.setWidth 32 ↔
      x.extractLsb' 24 8 = att ∧ x.extractLsb' 16 8 = dec ∧ x.extractLsb' 8 8 = sus ∧
        x.extractLsb' 0 8 = rel := by
  have hbytes := BitVec.setWidth_append_append_append_eq_shiftLeft_setWidth_or (w'''' := 32)
    (b := att) (b' := dec) (b'' := sus) (b''' := rel)
  rw [BitVec.setWidth_eq] at hbytes
  rw [← hbytes, eq_append_iff (m := 24) (n := 8), eq_append_iff (m := 16) (n := 8),
    eq_append_iff (m := 8) (n := 8)]
  simp [and_assoc, extractLsb'_extractLsb']

/-- The payload of `playNote` is the note, a byte of zeros and the velocity (R91). -/
theorem eq_notePayload_iff (x : BitVec 32) (note : RawNote) (velocity : Byte) :
    x = note.setWidth 32 <<< 16 ||| velocity.setWidth 32 ↔
      x.extractLsb' 8 8 = 0 ∧ x.extractLsb' 16 16 = note ∧ x.extractLsb' 0 8 = velocity := by
  have hbytes := BitVec.setWidth_append_append_eq_shiftLeft_setWidth_or (w''' := 32)
    (b := note) (b' := 0#8) (b'' := velocity)
  rw [BitVec.setWidth_eq, BitVec.setWidth_zero, BitVec.zero_shiftLeft, BitVec.or_zero] at hbytes
  rw [← hbytes, eq_append_iff (m := 24) (n := 8), eq_append_iff (m := 16) (n := 8)]
  simp [and_assoc, and_left_comm, extractLsb'_extractLsb']

/-- The payload of `setFilterEnabled` is its flag in bit 0 (R90). -/
theorem eq_flagPayload_iff (x : BitVec 32) (enabled : Bool) :
    x = (BitVec.ofBool enabled).setWidth 32 ↔ x.extractLsb' 1 31 = 0 ∧ x.getLsbD 0 = enabled := by
  have hbit : x.extractLsb' 0 1 = BitVec.ofBool enabled ↔ x.getLsbD 0 = enabled := by
    simp [BitVec.eq_of_getElem_eq_iff]
  rw [eq_setWidth_iff (m := 31) (n := 1), hbit]

/-! Masks and fields. -/

/-- The bits under a mask of `len` ones from bit `start` up are 0 exactly when that run of bits is. -/
theorem and_mask_eq_zero_iff {w : Nat} (x mask : BitVec w) (start len : Nat) (h : start + len ≤ w)
    (hmask : mask = (BitVec.allOnes len).setWidth w <<< start) :
    x &&& mask = 0 ↔ x.extractLsb' start len = 0 := by
  have hbit (i : Nat) (hi : i < w) :
      (x &&& mask).getLsbD i = (x.getLsbD i && decide (start ≤ i ∧ i < start + len)) := by
    rw [hmask, BitVec.getLsbD_and, BitVec.getLsbD_shiftLeft, BitVec.getLsbD_setWidth, BitVec.getLsbD_allOnes]
    grind
  constructor
  · intro hx
    ext i hi
    have hzero := hbit (start + i) (by omega)
    simpa [hx, hi] using hzero
  · intro hx
    apply BitVec.eq_of_getLsbD_eq
    intro i hi
    rw [hbit i hi]
    by_cases hin : start ≤ i ∧ i < start + len
    · have hzero := congrArg (BitVec.getLsbD · (i - start)) hx
      have hlt : i - start < len := by omega
      simpa [hin, hlt] using hzero
    · simp [hin]

/-- A word is the one its three fields make (R82). -/
theorem ofFields_eq {w : CmdWord} {op voice : Byte} {p : BitVec 32} (hop : (opField w).toNat = op.toNat)
    (hvoice : voiceField w = voice) (hp : payloadField w = p) : ofFields op voice p = w := by
  rw [← ofFields_fields w, BitVec.eq_of_toNat_eq hop, hvoice, hp]

/-- A mask and match on a word is one on each of its fields (R82). -/
theorem and_eq_iff_fields (w mask value : CmdWord) :
    w &&& mask = value ↔ opField w &&& opField mask = opField value ∧
      voiceField w &&& voiceField mask = voiceField value ∧
      payloadField w &&& payloadField mask = payloadField value := by
  simp only [opField, voiceField, payloadField, ← BitVec.extractLsb'_and]
  constructor
  · rintro rfl
    exact ⟨rfl, rfl, rfl⟩
  · rintro ⟨hop, hvoice, hpayload⟩
    exact (ofFields_eq (congrArg BitVec.toNat hop) hvoice hpayload).symm.trans (ofFields_fields value)

end Sys2Proof
end

section
/-! PROOF. The round trip of encoder and decoder (R85 to R95): what each opcode's decoder accepts, in terms of the
payloads the encoder makes. -/

namespace Sys2Proof

/-! The decoder of each opcode accepts exactly the fields that the encoder gives its command. -/

theorem mustBeZero_eq_ok_iff (zero : Bool) (i j : Instr) :
    mustBeZero zero i = .ok j ↔ zero = true ∧ i = j := by
  cases zero <;> simp [mustBeZero]

theorem waveformOfMask_eq_some_iff (m : Byte) (wf : Waveform) :
    waveformOfMask m = some wf ↔ m = wf.mask := by
  constructor
  · intro h
    unfold waveformOfMask at h
    split_ifs at h <;> cases h <;> assumption
  · rintro rfl
    exact waveformOfMask_mask wf

theorem decodeStart_eq_ok_iff (voice : Byte) (p : BitVec 32) (i : Instr) :
    decodeStart voice p = .ok i ↔ voice = 0 ∧ p = 0 ∧ .start = i := by
  simp [decodeStart, mustBeZero_eq_ok_iff, and_assoc]

theorem decodeSetVolume_eq_ok_iff (voice : Byte) (p : BitVec 32) (i : Instr) :
    decodeSetVolume voice p = .ok i ↔
      voice = 0 ∧ ∃ vol : Byte, p = vol.setWidth 32 ∧ .setVolume vol = i := by
  simp [decodeSetVolume, mustBeZero_eq_ok_iff, eq_setWidth_iff (m := 24) (n := 8), and_assoc]

theorem decodeSetAdsr_eq_ok_iff (voice : Byte) (p : BitVec 32) (i : Instr) :
    decodeSetAdsr voice p = .ok i ↔ ∃ att dec sus rel : Byte,
      p = att.setWidth 32 <<< 24 ||| dec.setWidth 32 <<< 16 ||| sus.setWidth 32 <<< 8 ||| rel.setWidth 32 ∧
        .setAdsr voice att dec sus rel = i := by
  simp [decodeSetAdsr, eq_adsrPayload_iff, and_assoc]

theorem decodeSetWaveform_eq_ok_iff (voice : Byte) (p : BitVec 32) (i : Instr) :
    decodeSetWaveform voice p = .ok i ↔
      ∃ wf : Waveform, p = wf.mask.setWidth 32 ∧ .setWaveform voice wf = i := by
  simp only [eq_setWidth_iff (m := 24) (n := 8), ← waveformOfMask_eq_some_iff, decodeSetWaveform]
  cases waveformOfMask (p.extractLsb' 0 8) with
  | none => simp
  | some wf => simp [mustBeZero_eq_ok_iff, and_assoc]

theorem decodeSetPulseWidth_eq_ok_iff (voice : Byte) (p : BitVec 32) (i : Instr) :
    decodeSetPulseWidth voice p = .ok i ↔
      ∃ width : WidthOperand, p = width.setWidth 32 ∧ .setPulseWidth voice width = i := by
  simp [decodeSetPulseWidth, mustBeZero_eq_ok_iff, eq_setWidth_iff (m := 16) (n := 16), and_assoc]

theorem decodeSetFilterEnabled_eq_ok_iff (voice : Byte) (p : BitVec 32) (i : Instr) :
    decodeSetFilterEnabled voice p = .ok i ↔
      ∃ enabled : Bool, p = (BitVec.ofBool enabled).setWidth 32 ∧ .setFilterEnabled voice enabled = i := by
  simp only [decodeSetFilterEnabled, mustBeZero_eq_ok_iff, eq_flagPayload_iff, beq_iff_eq, and_assoc,
    exists_and_left, exists_eq_left']

theorem decodePlayNote_eq_ok_iff (voice : Byte) (p : BitVec 32) (i : Instr) :
    decodePlayNote voice p = .ok i ↔ ∃ (note : RawNote) (velocity : Byte),
      p = note.setWidth 32 <<< 16 ||| velocity.setWidth 32 ∧ .playNote voice note velocity = i := by
  simp [decodePlayNote, mustBeZero_eq_ok_iff, eq_notePayload_iff, and_assoc]

/-! The round trip. -/

/-- Settles O4: the fields that the encoder gives a command are among those its opcode's decoder accepts. -/
theorem decodeOfEncodeIsTheCommand : Obligations.DecodeOfEncodeIsTheCommand := by
  intro i
  cases i <;> simp only [encode, decode, opField_ofFields, voiceField_ofFields, payloadField_ofFields]
  case start => exact (decodeStart_eq_ok_iff ..).2 ⟨rfl, rfl, rfl⟩
  case setVolume vol => exact (decodeSetVolume_eq_ok_iff ..).2 ⟨rfl, vol, rfl, rfl⟩
  case setAdsr voice att dec sus rel =>
    exact (decodeSetAdsr_eq_ok_iff ..).2 ⟨att, dec, sus, rel, rfl, rfl⟩
  case setWaveform voice wf => exact (decodeSetWaveform_eq_ok_iff ..).2 ⟨wf, rfl, rfl⟩
  case setPulseWidth voice width => exact (decodeSetPulseWidth_eq_ok_iff ..).2 ⟨width, rfl, rfl⟩
  case setFilterEnabled voice enabled =>
    exact (decodeSetFilterEnabled_eq_ok_iff ..).2 ⟨enabled, rfl, rfl⟩
  case playNote voice note velocity =>
    exact (decodePlayNote_eq_ok_iff ..).2 ⟨note, velocity, rfl, rfl⟩

/-- Settles O5: the fields that an opcode's decoder accepts are those the encoder gives the command. -/
theorem encodeOfDecodeIsTheWord : Obligations.EncodeOfDecodeIsTheWord := by
  intro w i h
  unfold decode at h
  split at h
  case h_1 hop =>
    obtain ⟨hvoice, hp, rfl⟩ := (decodeStart_eq_ok_iff ..).1 h
    exact ofFields_eq hop hvoice hp
  case h_2 hop =>
    obtain ⟨hvoice, vol, hp, rfl⟩ := (decodeSetVolume_eq_ok_iff ..).1 h
    exact ofFields_eq hop hvoice hp
  case h_3 hop =>
    obtain ⟨att, dec, sus, rel, hp, rfl⟩ := (decodeSetAdsr_eq_ok_iff ..).1 h
    exact ofFields_eq hop rfl hp
  case h_4 hop =>
    obtain ⟨wf, hp, rfl⟩ := (decodeSetWaveform_eq_ok_iff ..).1 h
    exact ofFields_eq hop rfl hp
  case h_5 hop =>
    obtain ⟨width, hp, rfl⟩ := (decodeSetPulseWidth_eq_ok_iff ..).1 h
    exact ofFields_eq hop rfl hp
  case h_6 hop =>
    obtain ⟨enabled, hp, rfl⟩ := (decodeSetFilterEnabled_eq_ok_iff ..).1 h
    exact ofFields_eq hop rfl hp
  case h_7 hop =>
    obtain ⟨note, velocity, hp, rfl⟩ := (decodePlayNote_eq_ok_iff ..).1 h
    exact ofFields_eq hop rfl hp
  case h_8 => cases h

end Sys2Proof
end

section
/-! PROOF. The legal words: by their fields, by the opcode table, and by R93 and R94; words written out from the
spec, and the step on a word that decodes. -/

namespace Sys2Proof

/-! The words that decode, by their fields. -/

/-- What R83 and R85 to R91 ask of a word's fields: a listed opcode, the must-be-zero bits 0, and one of the four
masks. -/
def fieldsLegal (op : Nat) (voice : Byte) (p : BitVec 32) : Prop :=
  (op = 1 ∧ voice = 0 ∧ p = 0) ∨ (op = 2 ∧ voice = 0 ∧ p.extractLsb' 8 24 = 0) ∨ op = 3 ∨
  (op = 4 ∧ p.extractLsb' 8 24 = 0 ∧ p.extractLsb' 0 8 ∈ [0x80#8, 0x40#8, 0x20#8, 0x10#8]) ∨
  (op = 5 ∧ p.extractLsb' 16 16 = 0) ∨ (op = 6 ∧ p.extractLsb' 1 31 = 0) ∨
  (op = 7 ∧ p.extractLsb' 8 8 = 0)

/-- R83: 0x00 and 0x08 to 0xFF are reserved. -/
theorem not_fieldsLegal_of_reserved {op : Nat} {voice : Byte} {p : BitVec 32} (h : op = 0 ∨ 8 ≤ op) :
    ¬ fieldsLegal op voice p := by
  unfold fieldsLegal
  omega

theorem mustBeZero_accepts_iff (zero : Bool) (i : Instr) :
    (∃ j, mustBeZero zero i = .ok j) ↔ zero = true := by
  simp [mustBeZero_eq_ok_iff]

theorem waveformOfMask_isSome_iff (m : Byte) :
    (waveformOfMask m).isSome ↔ m ∈ [0x80#8, 0x40#8, 0x20#8, 0x10#8] := by
  unfold waveformOfMask
  split_ifs <;> simp_all

theorem decodeSetWaveform_accepts_iff (voice : Byte) (p : BitVec 32) :
    (∃ i, decodeSetWaveform voice p = .ok i) ↔
      p.extractLsb' 8 24 = 0 ∧ p.extractLsb' 0 8 ∈ [0x80#8, 0x40#8, 0x20#8, 0x10#8] := by
  rw [← waveformOfMask_isSome_iff, decodeSetWaveform]
  cases waveformOfMask (p.extractLsb' 0 8) with
  | none => simp
  | some wf => simp [mustBeZero_accepts_iff]

theorem decode_accepts_iff_fieldsLegal (w : CmdWord) :
    (∃ i, decode w = .ok i) ↔ fieldsLegal (opField w).toNat (voiceField w) (payloadField w) := by
  unfold decode
  split
  case h_1 hop => simp [hop, fieldsLegal, decodeStart, mustBeZero_accepts_iff]
  case h_2 hop => simp [hop, fieldsLegal, decodeSetVolume, mustBeZero_accepts_iff]
  case h_3 hop => simp [hop, fieldsLegal, decodeSetAdsr]
  case h_4 hop => simp [hop, fieldsLegal, decodeSetWaveform_accepts_iff]
  case h_5 hop => simp [hop, fieldsLegal, decodeSetPulseWidth, mustBeZero_accepts_iff]
  case h_6 hop => simp [hop, fieldsLegal, decodeSetFilterEnabled, mustBeZero_accepts_iff]
  case h_7 hop => simp [hop, fieldsLegal, decodePlayNote, mustBeZero_accepts_iff]
  case h_8 =>
    have hreserved : (opField w).toNat = 0 ∨ 8 ≤ (opField w).toNat := by grind
    exact iff_of_false (by simp) (not_fieldsLegal_of_reserved hreserved)

/-! The opcode table. -/

/-- spec/opcode_table.json, each mask and match cut into the fields of R82. -/
theorem opcodeTable_eq_fields : opcodeTable =
    [ ⟨"start",            ofFields 0xFF 0xFF 0xFFFFFFFF, ofFields 1 0 0, none⟩,
      ⟨"setVolume",        ofFields 0xFF 0xFF 0xFFFFFF00, ofFields 2 0 0, none⟩,
      ⟨"setAdsr",          ofFields 0xFF 0x00 0x00000000, ofFields 3 0 0, none⟩,
      ⟨"setWaveform",      ofFields 0xFF 0x00 0xFFFFFF00, ofFields 4 0 0, some [0x80, 0x40, 0x20, 0x10]⟩,
      ⟨"setPulseWidth",    ofFields 0xFF 0x00 0xFFFF0000, ofFields 5 0 0, none⟩,
      ⟨"setFilterEnabled", ofFields 0xFF 0x00 0xFFFFFFFE, ofFields 6 0 0, none⟩,
      ⟨"playNote",         ofFields 0xFF 0x00 0x0000FF00, ofFields 7 0 0, none⟩ ] := by
  decide

/-- A word has a row's match under its mask exactly when its opcode is the row's and the other masked bits are
0. -/
theorem and_ofFields_eq_iff (w : CmdWord) (op voice : Byte) (p : BitVec 32) :
    w &&& ofFields 0xFF voice p = ofFields op 0 0 ↔
      (opField w).toNat = op.toNat ∧ voiceField w &&& voice = 0 ∧ payloadField w &&& p = 0 := by
  have hop : opField w &&& 0xFF = opField w := BitVec.and_allOnes
  rw [and_eq_iff_fields, BitVec.toNat_inj]
  simp only [opField_ofFields, voiceField_ofFields, payloadField_ofFields, hop]

theorem wordLegal_iff_fieldsLegal (w : CmdWord) :
    wordLegal w = true ↔ fieldsLegal (opField w).toNat (voiceField w) (payloadField w) := by
  have hlow : w.extractLsb' 0 8 = (payloadField w).extractLsb' 0 8 := by
    rw [payloadField, BitVec.extractLsb'_extractLsb'_of_le (by decide)]
  have hunmasked {n : Nat} (x : BitVec n) : x &&& 0 = 0 := BitVec.and_zero
  have hvoice : voiceField w &&& 0xFF = voiceField w := BitVec.and_allOnes
  have hpayload : payloadField w &&& 0xFFFFFFFF = payloadField w := BitVec.and_allOnes
  have h24 := and_mask_eq_zero_iff (payloadField w) 0xFFFFFF00 8 24 (by decide) (by decide)
  have h16 := and_mask_eq_zero_iff (payloadField w) 0xFFFF0000 16 16 (by decide) (by decide)
  have h31 := and_mask_eq_zero_iff (payloadField w) 0xFFFFFFFE 1 31 (by decide) (by decide)
  have h8 := and_mask_eq_zero_iff (payloadField w) 0x0000FF00 8 8 (by decide) (by decide)
  simp only [wordLegal, opcodeTable_eq_fields, List.any_cons, List.any_nil, rowMatches, Bool.or_eq_true,
    Bool.and_eq_true, beq_iff_eq, and_ofFields_eq_iff, List.contains_iff_mem, hlow, hunmasked, hvoice, hpayload,
    h24, h16, h31, h8, and_true, true_and, and_assoc, Bool.false_eq_true, or_false]
  rfl

theorem opField_eq_of_rowMatches {r : OpRow} (hr : r ∈ opcodeTable) {w : CmdWord}
    (h : rowMatches r w = true) : opField w = opField r.value := by
  have hmask : ∀ r ∈ opcodeTable, opField r.mask = BitVec.allOnes 8 := by decide
  rw [rowMatches, Bool.and_eq_true, beq_iff_eq, and_eq_iff_fields] at h
  obtain ⟨⟨hop, -, -⟩, -⟩ := h
  rw [← hop, hmask r hr, BitVec.and_allOnes]

/-- A row bears a command's opcode exactly when it bears its mnemonic. -/
theorem opField_value_eq_iff_mnemonic (i : Instr) :
    ∀ r ∈ opcodeTable, opField r.value = opField (encode i) ↔ r.mnemonic = mnemonicOf i := by
  cases i <;> simp only [encode, opField_ofFields, mnemonicOf] <;> decide

/-- The row of a word that decodes bears the mnemonic of its command. -/
theorem mnemonic_of_rowMatches {w : CmdWord} {i : Instr} (hi : decode w = .ok i) {r : OpRow}
    (hr : r ∈ opcodeTable) (h : rowMatches r w = true) : r.mnemonic = mnemonicOf i := by
  rw [← opField_value_eq_iff_mnemonic i r hr, encodeOfDecodeIsTheWord w i hi]
  exact (opField_eq_of_rowMatches hr h).symm

/-- Settles O6: decoder and table ask the same of a word's fields, and no two rows share a mnemonic. -/
theorem decodeAcceptsExactlyTheTableRows : Obligations.DecodeAcceptsExactlyTheTableRows := by
  intro w
  have hlegal : (∃ i, decode w = .ok i) ↔ wordLegal w = true :=
    (decode_accepts_iff_fieldsLegal w).trans (wordLegal_iff_fieldsLegal w).symm
  refine ⟨hlegal, fun i hi => ?_⟩
  obtain ⟨r, hr, hmatch⟩ := List.any_eq_true.mp (hlegal.mp ⟨i, hi⟩)
  refine ⟨⟨r, hr, hmatch⟩, fun q hq => ⟨mnemonic_of_rowMatches hi hq, fun h => ?_⟩⟩
  have hunique : ∀ q ∈ opcodeTable, ∀ r ∈ opcodeTable, q.mnemonic = r.mnemonic → q = r := by decide
  rwa [hunique q hq r hr (h.trans (mnemonic_of_rowMatches hi hr hmatch).symm)]

/-! The illegal words. -/

theorem decode_rejects_iff (w : CmdWord) : (∃ e, decode w = .error e) ↔ ¬ ∃ i, decode w = .ok i := by
  cases decode w <;> simp

/-- The fields that are not legal, opcode by opcode (R93, R94). -/
theorem not_fieldsLegal_iff (op : Nat) (voice : Byte) (p : BitVec 32) : ¬ fieldsLegal op voice p ↔
    op = 0 ∨ 8 ≤ op ∨ (op = 1 ∧ (voice ≠ 0 ∨ p ≠ 0)) ∨
    (op = 2 ∧ (voice ≠ 0 ∨ p.extractLsb' 8 24 ≠ 0)) ∨
    (op = 4 ∧ (p.extractLsb' 8 24 ≠ 0 ∨
      p.extractLsb' 0 8 ∉ [0x80#8, 0x40#8, 0x20#8, 0x10#8])) ∨
    (op = 5 ∧ p.extractLsb' 16 16 ≠ 0) ∨ (op = 6 ∧ p.extractLsb' 1 31 ≠ 0) ∨
    (op = 7 ∧ p.extractLsb' 8 8 ≠ 0) := by
  rcases Nat.lt_or_ge op 8 with h | h
  · interval_cases op <;> simp [fieldsLegal, imp_iff_not_or]
  · exact iff_of_true (not_fieldsLegal_of_reserved (.inr h)) (.inr (.inl h))

/-- Settles O7: the decoder accepts the words whose fields are legal and rejects all others. -/
theorem illegalWordsAreThoseOfR94 : Obligations.IllegalWordsAreThoseOfR94 := by
  intro w
  rw [decode_rejects_iff, decode_accepts_iff_fieldsLegal]
  exact not_fieldsLegal_iff (opField w).toNat (voiceField w) (payloadField w)

/-! Words and texts written out from the spec. -/

/-- Settles O8: the decoder, run on the seven words. -/
theorem specWordsDecode : Obligations.SpecWordsDecode := by
  unfold Obligations.SpecWordsDecode
  decide

/-- Settles O9: the assembler, run on the two texts. -/
theorem assemblerExamplesOfR96 : Obligations.AssemblerExamplesOfR96 :=
  ⟨by decide +kernel, by decide +kernel⟩

end Sys2Proof

namespace Sys2Proof.Machine

/-- Settles O23: the presented word is the head of the host's list, and taking it leaves the tail. -/
theorem stepRunsTheDecodedCommand : Obligations.StepRunsTheDecodedCommand := by
  intro s w rest i hpending hdecode
  have hpresented : presented s = some w := by rw [presented, hpending, List.head?_cons]
  have htake : takeWord s = { s with host := ⟨rest, s.host.index + 1⟩ } := by
    rw [takeWord, hpending, List.tail_cons]
  rw [step_of_legal hpresented hdecode, htake]

end Sys2Proof.Machine
end

section
/-! PROOF. The numeric converter (R111 to R120): the integer test of R118 compares the real steps of R116 with a
half-integer, never meets equality (R117), and so `wFull` is the nearest integer. -/

namespace Sys2Proof.Machine

/-! The two sides of R118's inequalities. -/

/-- R117's argument: 149 is prime, divides the left side and does not divide the right. -/
theorem mul_149_pow_ne_steps_pow {d : ℕ} (hd : d ≠ 0) (a e f : ℕ) :
    (a * 149) ^ d * 2 ^ e ≠ 2200000 ^ d * 2 ^ f := by
  intro h
  have hprime : Nat.Prime 149 := by norm_num
  have hdvd : 149 ∣ 2200000 ^ d * 2 ^ f := h ▸ ((dvd_mul_left 149 a).pow hd).mul_right (2 ^ e)
  rcases hprime.dvd_mul.mp hdvd with h | h
  · exact absurd (hprime.dvd_of_dvd_pow h) (by decide)
  · exact absurd (hprime.dvd_of_dvd_pow h) (by decide)

/-- `noteSteps` by the exponent of the integer test. -/
theorem noteSteps_eq (n : RawNote) :
    noteSteps n = 1100000 / 149 * (2 : ℝ) ^ ((noteExponent n : ℝ) / 3072) := rfl

theorem noteSteps_pos (n : RawNote) : 0 < noteSteps n := by
  unfold noteSteps
  positivity

/-- R116's formula without root and quotient. -/
theorem noteSteps_pow (n : RawNote) :
    (2 * noteSteps n * 149) ^ 3072 * 2 ^ (-noteExponent n).toNat =
      2200000 ^ 3072 * 2 ^ (noteExponent n).toNat := by
  have hroot : ((2 : ℝ) ^ ((noteExponent n : ℝ) / 3072)) ^ 3072 = 2 ^ noteExponent n := by
    rw [← Real.rpow_mul_natCast two_pos.le, ← Real.rpow_intCast]
    congr 1
    norm_num
  have hsign : (2 : ℝ) ^ noteExponent n * 2 ^ (-noteExponent n).toNat = 2 ^ (noteExponent n).toNat := by
    rw [← zpow_natCast, ← zpow_natCast, ← zpow_add₀ two_ne_zero]
    congr 1
    omega
  have hsteps : 2 * noteSteps n * 149 = 2200000 * (2 : ℝ) ^ ((noteExponent n : ℝ) / 3072) := by
    rw [noteSteps_eq]
    ring
  rw [hsteps, mul_pow, hroot, mul_assoc, hsign]

/-- The cast of R118's sides, for any exponents. -/
theorem natCast_pow_mul_two_pow (x d e : ℕ) : ((x ^ d * 2 ^ e : ℕ) : ℝ) = (x : ℝ) ^ d * 2 ^ e := by
  rw [Nat.cast_mul, Nat.cast_pow, Nat.cast_pow, Nat.cast_ofNat]

/-- The integer test of R118 on `a`, twice a half-integer. -/
theorem mul_149_pow_le_iff (n : RawNote) (a : ℕ) :
    (a * 149) ^ 3072 * 2 ^ (-noteExponent n).toNat ≤ 2200000 ^ 3072 * 2 ^ (noteExponent n).toNat ↔
      (a : ℝ) ≤ 2 * noteSteps n := by
  have hpos := noteSteps_pos n
  rw [← Nat.cast_le (α := ℝ), natCast_pow_mul_two_pow, natCast_pow_mul_two_pow, Nat.cast_mul, Nat.cast_ofNat,
    Nat.cast_ofNat, ← noteSteps_pow, mul_le_mul_iff_left₀ (by positivity),
    pow_le_pow_iff_left₀ (by positivity) (by positivity) (by norm_num), mul_le_mul_iff_left₀ (by norm_num)]

/-- R117, for naturals: equality in R118's test is the tie, and it does not occur. -/
theorem natCast_ne_two_mul_noteSteps (n : RawNote) (a : ℕ) : (a : ℝ) ≠ 2 * noteSteps n := by
  intro h
  have hd : 3072 ≠ 0 := by norm_num
  refine mul_149_pow_ne_steps_pow hd a (-noteExponent n).toNat (noteExponent n).toNat ?_
  rw [← Nat.cast_inj (R := ℝ), natCast_pow_mul_two_pow, natCast_pow_mul_two_pow, Nat.cast_mul, h]
  exact noteSteps_pow n

theorem noteReaches_iff_le_noteSteps (n : RawNote) (m : ℕ) :
    noteReaches (noteExponent n) m = true ↔ (m : ℝ) ≤ noteSteps n + 1 / 2 := by
  have hpos := noteSteps_pos n
  rw [noteReaches_iff, mul_149_pow_le_iff]
  cases m with
  | zero =>
    have h : ((0 : ℕ) : ℝ) ≤ noteSteps n + 1 / 2 := by push_cast; positivity
    exact iff_of_true (.inl rfl) h
  | succ m =>
    rw [show 2 * (m + 1) - 1 = 2 * m + 1 by omega, or_iff_right m.succ_ne_zero]
    push_cast
    constructor <;> intro h <;> linarith

/-! The order on notes. -/

theorem rawNote_toInt_bounds (n : RawNote) : -32768 ≤ n.toInt ∧ n.toInt ≤ 32767 := by
  have hlow := BitVec.le_two_mul_toInt (x := n)
  have hhigh := BitVec.two_mul_toInt_lt (x := n)
  omega

theorem noteSteps_le_of_toInt_le {m n : RawNote} (h : m.toInt ≤ n.toInt) : noteSteps m ≤ noteSteps n := by
  unfold noteSteps
  gcongr
  exact one_le_two

theorem wFull_le_of_toInt_le {m n : RawNote} (h : m.toInt ≤ n.toInt) : wFull m ≤ wFull n := by
  obtain ⟨hreached, hbound, -⟩ := wFull_spec m
  obtain ⟨-, -, hlargest⟩ := wFull_spec n
  refine hlargest _ hbound ?_
  rw [noteReaches_iff_le_noteSteps] at hreached ⊢
  linarith [noteSteps_le_of_toInt_le h]

theorem wFull_top : wFull 0x7FFF = 222932 := by decide

theorem wFull_le_top (n : RawNote) : wFull n ≤ 222932 := by
  obtain ⟨-, hhigh⟩ := rawNote_toInt_bounds n
  have htop : (0x7FFF : RawNote).toInt = 32767 := by decide
  exact (wFull_le_of_toInt_le (by omega)).trans_eq wFull_top

/-- Where `wFull` jumps between neighbouring notes: the notes at most at `w` are those up to the lower one. -/
theorem wFull_le_iff_of_edge {lo hi : RawNote} {w : ℕ} (hnext : hi.toInt = lo.toInt + 1) (hlo : wFull lo ≤ w)
    (hhi : w < wFull hi) (n : RawNote) : wFull n ≤ w ↔ n.toInt ≤ lo.toInt := by
  refine ⟨fun h => ?_, fun h => (wFull_le_of_toInt_le h).trans hlo⟩
  by_contra hgt
  have hle : wFull hi ≤ wFull n := wFull_le_of_toInt_le (by omega)
  omega

/-! `wFull` as the largest number reached, without the search's bound. -/

theorem le_wFull_iff_noteReaches (n : RawNote) (m : ℕ) :
    m ≤ wFull n ↔ noteReaches (noteExponent n) m = true := by
  obtain ⟨hreached, -, hlargest⟩ := wFull_spec n
  refine ⟨fun h => noteReaches_of_le h hreached, fun h => ?_⟩
  rcases Nat.lt_or_ge m (2 ^ 18) with hm | hm
  · exact hlargest m hm h
  · have hnext : 222933 ≤ wFull n := hlargest _ (by norm_num) (noteReaches_of_le (by omega) h)
    have htop := wFull_le_top n
    omega

theorem le_wFull_iff_le_noteSteps (n : RawNote) (m : ℕ) :
    m ≤ wFull n ↔ (m : ℝ) ≤ noteSteps n + 1 / 2 := by
  rw [le_wFull_iff_noteReaches, noteReaches_iff_le_noteSteps]

/-- R118's left inequality, strict. -/
theorem le_wFull_iff_mul_149_pow_lt (n : RawNote) (m : ℕ) :
    m ≤ wFull n ↔ m = 0 ∨ ((2 * m - 1) * 149) ^ 3072 * 2 ^ (-noteExponent n).toNat <
      2200000 ^ 3072 * 2 ^ (noteExponent n).toNat := by
  rw [le_wFull_iff_noteReaches, noteReaches_iff,
    (mul_149_pow_ne_steps_pow (by norm_num) (2 * m - 1) _ _).le_iff_lt]

/-- R118's right inequality. -/
theorem wFull_le_iff_lt_mul_149_pow (n : RawNote) (m : ℕ) :
    wFull n ≤ m ↔ 2200000 ^ 3072 * 2 ^ (noteExponent n).toNat <
      ((2 * m + 1) * 149) ^ 3072 * 2 ^ (-noteExponent n).toNat := by
  rw [← not_lt, ← Nat.succ_le_iff, le_wFull_iff_noteReaches, noteReaches_iff, or_iff_right m.succ_ne_zero,
    not_le, show 2 * m.succ - 1 = 2 * m + 1 by omega]

/-- Both forms of R118 at once. -/
theorem wFull_eq_iff (n : RawNote) (m : ℕ) : wFull n = m ↔
    (m = 0 ∨ ((2 * m - 1) * 149) ^ 3072 * 2 ^ (-noteExponent n).toNat <
      2200000 ^ 3072 * 2 ^ (noteExponent n).toNat) ∧
    2200000 ^ 3072 * 2 ^ (noteExponent n).toNat <
      ((2 * m + 1) * 149) ^ 3072 * 2 ^ (-noteExponent n).toNat := by
  rw [← le_wFull_iff_mul_149_pow_lt, ← wFull_le_iff_lt_mul_149_pow, le_antisymm_iff, and_comm]

/-! The conversion over the reals. -/

theorem wFull_eq_floor (n : RawNote) : wFull n = ⌊noteSteps n + 1 / 2⌋₊ := by
  have hpos := noteSteps_pos n
  refine eq_of_forall_le_iff fun m => ?_
  rw [le_wFull_iff_le_noteSteps, Nat.le_floor_iff (by positivity)]

theorem noteToWord_toNat (n : RawNote) : (noteToWord n).toNat = wFull n % 65536 := by
  rw [noteToWord, BitVec.toNat_ofNat]

/-- Settles O49: a natural is at most `wFull` exactly when it is at most the formula plus one half. -/
theorem noteToWordIsTheRealFormula : Obligations.NoteToWordIsTheRealFormula := by
  intro n
  obtain ⟨hlow, hhigh⟩ := rawNote_toInt_bounds n
  have hexponent : noteExponent n = n.toInt - 17664 := rfl
  exact ⟨hexponent, by omega, by omega, wFull_eq_floor n, noteToWord_toNat n⟩

/-- The composition of R111 and R112 is R116's formula. -/
theorem hzSteps_noteToHz (n : RawNote) : hzSteps (noteToHz (noteOfRaw n)) = noteSteps n := by
  have hexponent : ((n.toInt : ℝ) / 256 - 69) / 12 = ((n.toInt - 17664 : ℤ) : ℝ) / 3072 := by
    push_cast
    ring
  rw [hzSteps, noteToHz, noteOfRaw, noteSteps, hexponent]
  ring

/-- Settles O50: both are the nearest integer to the same real number, cut to 16 bits. -/
theorem noteToWordIsHzToWordOfNoteToHz : Obligations.NoteToWordIsHzToWordOfNoteToHz := by
  intro n
  rw [hzToWord, hzFull, roundHalfUp, hzSteps_noteToHz, ← wFull_eq_floor, noteToWord]

theorem noteSteps_ne_half (n : RawNote) (m : ℤ) : noteSteps n ≠ m + 1 / 2 := by
  intro h
  have hpos := noteSteps_pos n
  have htwice : ((2 * m + 1 : ℤ) : ℝ) = 2 * noteSteps n := by
    push_cast
    linarith
  have hodd : 0 < 2 * m + 1 := by
    rw [← Int.cast_pos (R := ℝ), htwice]
    positivity
  obtain ⟨a, ha⟩ := Int.eq_ofNat_of_zero_le hodd.le
  exact natCast_ne_two_mul_noteSteps n a (by rw [← htwice, ha, Int.cast_natCast])

/-- Settles O51: the two bounds hold, weakly below and strictly above, since `wFull` is the largest number
reached, and a tie would need equality in R118's test. -/
theorem noTies : Obligations.NoTies := by
  intro n
  have hlow := (le_wFull_iff_le_noteSteps n (wFull n)).mp le_rfl
  have hhigh := (le_wFull_iff_le_noteSteps n (wFull n + 1)).not.mp (by omega)
  have htie := noteSteps_ne_half n (wFull n - 1)
  push_cast at hhigh htie
  refine ⟨noteSteps_ne_half n, lt_of_le_of_ne (by linarith) fun h => htie (by linarith), by linarith⟩

/-- Settles O52: where `k` has one sign, the power of 2 on one side of R118 is 1. -/
theorem integerCharacterisationOfR118 : Obligations.IntegerCharacterisationOfR118 := by
  intro n
  refine ⟨wFull_le_top n, fun hk m => ?_, fun hk m => ?_, le_wFull_iff_mul_149_pow_lt n⟩
  · rw [wFull_eq_iff, show (-noteExponent n).toNat = 0 by omega, pow_zero, mul_one, mul_one]
  · rw [wFull_eq_iff, show (noteExponent n).toNat = 0 by omega, pow_zero, mul_one]

/-! R119's facts. -/

theorem noteSteps_octave {m n : RawNote} (h : n.toInt = m.toInt + 3072) : noteSteps n = 2 * noteSteps m := by
  have hexponent : ((n.toInt - 17664 : ℤ) : ℝ) / 3072 = ((m.toInt - 17664 : ℤ) : ℝ) / 3072 + 1 := by
    rw [h]
    push_cast
    ring
  rw [noteSteps, noteSteps, hexponent, Real.rpow_add_one two_ne_zero]
  ring

theorem wFull_eq_zero_iff (n : RawNote) : wFull n = 0 ↔ n.toInt ≤ -24883 := by
  rw [← Nat.le_zero]
  exact wFull_le_iff_of_edge (lo := 0x9ECD) (hi := 0x9ECE) (by decide) (by decide) (by decide) n

theorem wFull_fits_iff (n : RawNote) : wFull n ≤ 65535 ↔ n.toInt ≤ 27341 :=
  wFull_le_iff_of_edge (lo := 0x6ACD) (hi := 0x6ACE) (by decide) (by decide) (by decide) n

theorem wholeNote_toInt {j : ℕ} (hj : j ≤ 127) : (BitVec.ofNat 16 (256 * j) : RawNote).toInt = 256 * j := by
  have hnat : (BitVec.ofNat 16 (256 * j)).toNat = 256 * j := by
    rw [BitVec.toNat_ofNat]
    omega
  rw [BitVec.toInt_eq_toNat_of_lt (by omega), hnat]
  norm_cast

theorem wFull_wholeNote_fits_iff {j : ℕ} (hj : j ≤ 127) :
    wFull (BitVec.ofNat 16 (256 * j)) ≤ 65535 ↔ j ≤ 106 := by
  rw [wFull_fits_iff, wholeNote_toInt hj]
  omega

theorem wFull_one_of_toInt {n : RawNote} (h : n.toInt = -24882) : wFull n = 1 := by
  have hn : n = 0x9ECE := BitVec.toInt_inj.mp h
  rw [hn]
  decide

/-- Settles O53: the order gives each edge from its two notes, and the words at single notes are computed. -/
theorem frequencyWordFactsOfR119 : Obligations.FrequencyWordFactsOfR119 :=
  ⟨fun _ _ => wFull_le_of_toInt_le, wFull_eq_zero_iff, fun _ => wFull_one_of_toInt, wFull_fits_iff, by decide,
    by decide, by decide, wFull_le_top, wFull_top, by decide, by decide,
    fun _ => wFull_wholeNote_fits_iff, fun _ _ => noteSteps_octave, by decide, by decide⟩

/-! Scaling. -/

/-- The quotient fits the nibble. -/
theorem scale4_toNat {vol : Byte} (h : vol.toNat ≤ 127) : (scale4 vol).toNat = vol.toNat * 15 / 127 := by
  rw [scale4, scale, volMax, BitVec.toNat_ofNat]
  omega

/-- Settles O54: the corners of the quotient. -/
theorem volumeScaling : Obligations.VolumeScaling := by
  intro vol h
  rw [scale4_toNat h]
  exact ⟨rfl, by omega, by omega⟩

end Sys2Proof.Machine
end

section
/-! PROOF. Each command of the sequencer as a whole: the state it ends in field by field, with its data bytes as
numbers, and its rejections (R141 to R147, R171); the counts of R151 and the repetition of R152. -/

namespace Sys2Proof.Machine

/-! The two outcomes of a command as full states. -/

/-- An effect, field by field: the shadow, `res <- OK`, and its events on the trace and to the chip. -/
theorem effect_eq (i : Instr) (v : VoiceIdx) (s : State) : effect i v s = { s with
    voices := s.voices.set v (newVoice i (s.voice v))
    vol4 := newVol4 i s.vol4
    res := 0
    trace := s.trace ++ eventsOf i v s
    chip := s.chip.hear (eventsOf i v s) } := by
  rw [← effect_trace, ← effect_chip, ← effect_vol4 i v s]
  cases i with
  | start | setVolume =>
    rw [newVoice, State.voice, voices_set_get]
    rfl
  | setAdsr | setWaveform | setPulseWidth | setFilterEnabled | playNote => rfl

/-- A command whose first failing check gives `c` is rejected with it (R171). -/
theorem exec_of_failure {i : Instr} {c : ResultCode} (h : firstFailure i = c) (hc : c ≠ .ok) (s : State) :
    exec i s = .next { s with res := c.bits, err := true } := by
  subst h
  rw [exec_of_rejected hc, finish_of_ne_ok hc]

/-- The voice is checked first (R173, R177), by every command that has one. -/
theorem firstFailure_of_voice_gt {i : Instr} {b : Byte} (hop : voiceOperand i = some b)
    (hb : 2 < b.toNat) : firstFailure i = .errVoice := by
  cases i with
  | start | setVolume => cases hop
  | setAdsr | setWaveform | setPulseWidth | setFilterEnabled | playNote =>
    cases hop
    exact if_pos hb

theorem exec_of_voice_gt {i : Instr} {b : Byte} (hop : voiceOperand i = some b) (hb : 2 < b.toNat)
    (s : State) : exec i s = .next { s with res := 1, err := true } :=
  exec_of_failure (firstFailure_of_voice_gt hop hb) (by decide) s

theorem not_two_lt_of_eq_voice {b : Byte} {v : VoiceIdx} (h : b.toNat = v.val) : ¬ 2 < b.toNat := by
  omega

/-! The data bytes as numbers (R53, R54, R57, R59). -/

/-- A pair of nibbles is `16 * high + low`; a high byte above 15 loses the same bits on both sides. -/
theorem append_setWidth_eq_ofNat (hi : Byte) {lo : Byte} (hlo : lo.toNat ≤ 15) :
    (hi.setWidth 4 ++ lo.setWidth 4 : Byte) = BitVec.ofNat 8 (hi.toNat * 16 + lo.toNat) := by
  apply BitVec.eq_of_toNat_eq
  rw [BitVec.toNat_append, ← Nat.shiftLeft_add_eq_or_of_lt (BitVec.isLt _), Nat.shiftLeft_eq]
  simp only [BitVec.toNat_setWidth, BitVec.toNat_ofNat]
  omega

theorem extractLsb'_low_eq_ofNat {n : Nat} (x : BitVec n) :
    x.extractLsb' 0 8 = BitVec.ofNat 8 (x.toNat % 256) := by
  apply BitVec.eq_of_toNat_eq
  simp

theorem freqHi_eq_ofNat (w : FreqWord) : freqHi w = BitVec.ofNat 8 (w.toNat / 256) := by
  apply BitVec.eq_of_toNat_eq
  simp [freqHi, Nat.shiftRight_eq_div_pow]

theorem pwLo_setWidth_eq_ofNat (w : WidthOperand) :
    pwLo (w.setWidth 12) = BitVec.ofNat 8 (w.toNat % 256) := by
  rw [pwLo, extractLsb'_low_eq_ofNat, BitVec.toNat_setWidth, Nat.mod_mod_of_dvd _ (by decide)]

theorem pwHi_setWidth_eq_ofNat {w : WidthOperand} (h : w.toNat ≤ 4095) :
    pwHi (w.setWidth 12) = BitVec.ofNat 8 (w.toNat / 256) := by
  apply BitVec.eq_of_toNat_eq
  simp [pwHi, Nat.shiftRight_eq_div_pow]
  omega

theorem volByte_scale4_eq_ofNat {vol : Byte} (h : vol.toNat ≤ 127) :
    volByte (scale4 vol) = BitVec.ofNat 8 (vol.toNat * 15 / 127) := by
  apply BitVec.eq_of_toNat_eq
  rw [volByte, BitVec.toNat_setWidth, scale4_toNat h, BitVec.toNat_ofNat]

/-! The commands on the chip as a whole. -/

/-- Settles O10: `start` makes no check, and its effect leaves the shadow. -/
theorem startEmitsClockThenReset : Obligations.StartEmitsClockThenReset := by
  intro s
  rw [exec_of_accepted (v := 0) rfl (by simp [voiceOperand]), effect_eq]
  rfl

/-- Settles O11: the scaled volume fits `vol4`, so the byte written is the same number. -/
theorem setVolumeScalesAndWrites : Obligations.SetVolumeScalesAndWrites := by
  refine fun vol s => ⟨fun h => ?_, fun h => ?_⟩
  · have hok : firstFailure (.setVolume vol) = .ok := if_neg h.not_gt
    rw [exec_of_accepted (v := 0) hok (by simp [voiceOperand]), effect_eq, eventsOf,
      volByte_scale4_eq_ofNat h]
    rfl
  · have hfail : firstFailure (.setVolume vol) = .errRange := if_pos h
    exact exec_of_failure hfail (by decide) s

/-! The commands on one voice. -/

/-- Settles O12: the four fields in range are nibbles, written as two pairs. -/
theorem setAdsrWritesAdThenSr : Obligations.SetAdsrWritesAdThenSr := by
  refine fun voice att dec sus rel s => ⟨fun v hv hatt hdec hsus hrel => ?_, exec_of_voice_gt rfl (s := s),
    fun hv h => ?_⟩
  · have hok : firstFailure (.setAdsr voice att dec sus rel) = .ok :=
      (if_neg (not_two_lt_of_eq_voice hv)).trans (if_neg (by omega))
    rw [exec_of_accepted_voice hok rfl hv, effect_eq, eventsOf, append_setWidth_eq_ofNat _ hdec,
      append_setWidth_eq_ofNat _ hrel]
    simp only [chip_hear_cons, chip_hear_nil, chipAfter_write, voiceAddr_toNat]
    rfl
  · have hfail : firstFailure (.setAdsr voice att dec sus rel) = .errRange := (if_neg hv.not_gt).trans (if_pos h)
    exact exec_of_failure hfail (by decide) s

/-- Settles O13: the gate in the byte is the one that the shadow had. -/
theorem setWaveformWritesControl : Obligations.SetWaveformWritesControl := by
  refine fun voice w s => ⟨fun v hv => ⟨w.mask, by cases w <;> rfl, ?_⟩, exec_of_voice_gt rfl (s := s)⟩
  have hok : firstFailure (.setWaveform voice w) = .ok := if_neg (not_two_lt_of_eq_voice hv)
  rw [exec_of_accepted_voice hok rfl hv, effect_eq, eventsOf, ctrlByte_eq_or_ite]
  simp only [chip_hear_cons, chip_hear_nil, chipAfter_write, voiceAddr_toNat]
  rfl

/-- Settles O14: the voice is checked before the width, and a width in range splits in two bytes. -/
theorem setPulseWidthWritesLowThenHigh : Obligations.SetPulseWidthWritesLowThenHigh := by
  refine fun voice width s => ⟨fun v hv hw => ?_, exec_of_voice_gt rfl (s := s), fun hv h => ?_⟩
  · have hok : firstFailure (.setPulseWidth voice width) = .ok :=
      (if_neg (not_two_lt_of_eq_voice hv)).trans (if_neg hw.not_gt)
    rw [exec_of_accepted_voice hok rfl hv, effect_eq, eventsOf, pwLo_setWidth_eq_ofNat,
      pwHi_setWidth_eq_ofNat hw]
    simp only [chip_hear_cons, chip_hear_nil, chipAfter_write, voiceAddr_toNat]
    rfl
  · have hfail : firstFailure (.setPulseWidth voice width) = .errPw := (if_neg hv.not_gt).trans (if_pos h)
    exact exec_of_failure hfail (by decide) s

/-- Settles O15: the byte is built from the flags after the update. -/
theorem setFilterEnabledWritesAllFlags : Obligations.SetFilterEnabledWritesAllFlags := by
  refine fun voice b s => ⟨fun v hv => ⟨fun u => if u = v then b else (s.voice u).filt, _, fun _ => rfl, rfl, ?_⟩,
    exec_of_voice_gt rfl (s := s)⟩
  have hok : firstFailure (.setFilterEnabled voice b) = .ok := if_neg (not_two_lt_of_eq_voice hv)
  rw [exec_of_accepted_voice hok rfl hv, effect_eq, eventsOf, filtByte_eq_sum]
  rfl

/-- Settles O16: the two bytes of the word, then the control byte with the new gate. -/
theorem playNoteWritesFrequencyThenControl : Obligations.PlayNoteWritesFrequencyThenControl := by
  refine fun voice note velocity s => ⟨fun v hv hvel => ⟨_, _, _, rfl, rfl, rfl, ?_⟩,
    exec_of_voice_gt rfl (s := s), fun hv h => ?_⟩
  · have hok : firstFailure (.playNote voice note velocity) = .ok :=
      (if_neg (not_two_lt_of_eq_voice hv)).trans (if_neg hvel.not_gt)
    rw [exec_of_accepted_voice hok rfl hv, effect_eq, eventsOf, freqLo, extractLsb'_low_eq_ofNat,
      freqHi_eq_ofNat, ctrlByte_eq_or_ite]
    simp only [chip_hear_cons, chip_hear_nil, chipAfter_write, voiceAddr_toNat, velToGate, decide_eq_true_eq]
    rfl
  · have hfail : firstFailure (.playNote voice note velocity) = .errRange := (if_neg hv.not_gt).trans (if_pos h)
    exact exec_of_failure hfail (by decide) s

/-! Velocity (R121, R150). -/

/-- A velocity in range has no part in the checks. -/
theorem firstFailure_playNote_congr {voice : Byte} {note : RawNote} {a b : Byte} (ha : a.toNat ≤ 127)
    (hb : b.toNat ≤ 127) : firstFailure (.playNote voice note a) = firstFailure (.playNote voice note b) := by
  rw [firstFailure, firstFailure, if_neg ha.not_gt, if_neg hb.not_gt]

/-- Settles O17: a velocity in range reaches the effect only through its gate, and the two frequency writes not
at all. -/
theorem velocityOnlyGates : Obligations.VelocityOnlyGates := by
  refine fun voice note a b s => ⟨fun ha ha' hb hb' => ?_, fun ha s' t hs ht => ?_⟩
  · have hcheck := firstFailure_playNote_congr (voice := voice) (note := note) ha' hb'
    have hgate : velToGate a = velToGate b := by rw [velToGate, velToGate, decide_eq_true ha, decide_eq_true hb]
    rcases exec_cases (.playNote voice note a) s with ⟨hok, v, hv, hexec⟩ | ⟨hfail, hexec⟩
    · rw [hexec, exec_of_accepted_voice (hcheck ▸ hok) rfl (hv voice rfl), effect, effect, hgate]
    · rw [hexec, exec_of_rejected (hcheck ▸ hfail), hcheck]
  · have hcheck := firstFailure_playNote_congr (voice := voice) (note := note) (b := 0) ha (by decide)
    rcases exec_next_cases hs with ⟨hok, v, hv, rfl⟩ | ⟨hfail, rfl⟩
    · cases (exec_of_accepted_voice (hcheck ▸ hok) rfl (hv voice rfl) s).symm.trans ht
      rw [emitted_of_trace_append (effect_trace ..), emitted_of_trace_append (effect_trace ..)]
      rfl
    · cases (exec_of_rejected (hcheck ▸ hfail) s).symm.trans ht
      rfl

/-! The events of any command. -/

/-- Settles O34: an effect appends its events, and a rejection leaves the trace. -/
theorem eventCountsOfR151 : Obligations.EventCountsOfR151 := by
  intro i s
  rcases exec_cases i s with ⟨hok, v, -, hexec⟩ | ⟨hfail, hexec⟩
  · exact ⟨_, _, hexec, effect_trace i v s, fun _ => eventsOf_length i v s, absurd hok⟩
  · exact ⟨_, [], hexec, (List.append_nil _).symm, fun h => absurd h hfail, fun _ => rfl⟩

/-- R152: what a command has written to the shadow does not change what it emits. -/
theorem eventsOf_effect (i : Instr) (v : VoiceIdx) (s : State) :
    eventsOf i v (effect i v s) = eventsOf i v s := by
  obtain ⟨-, -, -, hparams⟩ := effect_frame i v s
  cases i with
  | start | setAdsr | setPulseWidth => rfl
  | setVolume => rw [eventsOf, hparams, eventsOf]
  | setWaveform | playNote => rw [eventsOf, effect_voice, if_pos rfl, newVoice, eventsOf]
  | setFilterEnabled voice enabled =>
    have hfilt (u : VoiceIdx) :
        (if u = v then enabled else ((effect (.setFilterEnabled voice enabled) v s).voice u).filt) =
          if u = v then enabled else (s.voice u).filt := by
      refine ite_congr rfl (fun _ => rfl) fun hu => ?_
      rw [effect_voice, if_neg hu]
    rw [eventsOf, hparams, hfilt, hfilt, hfilt, eventsOf]

/-- Settles O36: the checks read the operands alone, so both executions are accepted, with the same events, or
both rejected, with none. -/
theorem repeatedCommandEmitsTheSameEvents : Obligations.RepeatedCommandEmitsTheSameEvents := by
  intro i s s' s'' h h'
  rcases exec_next_cases h with ⟨hok, v, hv, rfl⟩ | ⟨hfail, rfl⟩
  · cases (exec_of_accepted hok hv _).symm.trans h'
    rw [emitted_of_trace_append (effect_trace ..), emitted_of_trace_append (effect_trace ..), eventsOf_effect]
  · cases (exec_of_rejected hfail _).symm.trans h'
    rfl

end Sys2Proof.Machine
end

section
/-! PROOF. Rejection, the status registers and the word at the port: how a command and a step end (R140, R171 to
R176, R184, R185). -/

namespace Sys2Proof.Machine

/-! The status registers. -/

/-- R172: `OK` is the one code that is 0. -/
theorem bits_eq_zero_iff (c : ResultCode) : c.bits = 0 ↔ c = .ok := by
  cases c <;> decide

/-- R30: no completion clears `err`. -/
@[simp] theorem errAfter_true (c : ResultCode) : errAfter c true = true := by
  cases c <;> rfl

/-- Settles O19: by the definition of the codes. -/
theorem resultCodesAreThoseOfR172 : Obligations.ResultCodesAreThoseOfR172 :=
  ⟨rfl, rfl, rfl, rfl, rfl⟩

/-- Settles O18: a rejection is a completion with the first failing check's code, in the state as it was. -/
theorem rejectedCommandChangesOnlyStatus : Obligations.RejectedCommandChangesOnlyStatus :=
  fun _ s hfail => exec_of_failure rfl hfail s

/-- Settles O20: an effect ends with `OK` and leaves `err`, and the code of a rejection is not `OK`'s. -/
theorem acceptedExactlyWhenResIsOk : Obligations.AcceptedExactlyWhenResIsOk := by
  intro i s
  rcases exec_cases i s with ⟨hok, v, -, hexec⟩ | ⟨hfail, hexec⟩
  · obtain ⟨hres, herr, -, -⟩ := effect_frame i v s
    exact ⟨_, hexec, iff_of_true hok hres, fun _ => herr⟩
  · exact ⟨_, hexec, (bits_eq_zero_iff _).symm, fun hok => absurd hok hfail⟩

/-- Settles O21: completions and effects leave `err` at 1, and the taking of a word does not touch it. -/
theorem errIsSticky : Obligations.ErrIsSticky := by
  intro s s' hstep herr
  refine step_keeps (fun s => s.err = true) ?_ (fun _ h => h) ?_ s s' herr hstep
  · intro c s herr
    rw [finish_err, herr, errAfter_true]
  · intro i v s herr
    obtain ⟨-, herr', -, -⟩ := effect_frame i v s
    exact herr'.trans herr

/-! The word at the port. -/

theorem presented_eq_none_iff (s : State) : presented s = none ↔ s.host.pending = [] :=
  List.head?_eq_none_iff

theorem presented_of_pending_cons {s : State} {w : CmdWord} {rest : List CmdWord}
    (h : s.host.pending = w :: rest) : presented s = some w := by
  rw [presented, h, List.head?_cons]

theorem takeWord_of_pending_cons {s : State} {w : CmdWord} {rest : List CmdWord}
    (h : s.host.pending = w :: rest) : takeWord s = { s with host := ⟨rest, s.host.index + 1⟩ } := by
  rw [takeWord, h, List.tail_cons]

/-- R94: a word of no row of the opcode table does not decode. -/
theorem decode_error_of_not_wordLegal {w : CmdWord} (h : wordLegal w = false) :
    ∃ e, decode w = .error e := by
  obtain ⟨haccepts, -⟩ := decodeAcceptsExactlyTheTableRows w
  rw [decode_rejects_iff, haccepts, h]
  exact Bool.false_ne_true

/-- Settles O24: the word does not decode, and ERR_ILLEGAL ends the step in the state with the word taken. -/
theorem stepRejectsAnIllegalWord : Obligations.StepRejectsAnIllegalWord := by
  intro s w rest hpending hillegal
  obtain ⟨e, hdecode⟩ := decode_error_of_not_wordLegal hillegal
  rw [step_of_illegal (presented_of_pending_cons hpending) hdecode, takeWord_of_pending_cons hpending,
    finish_of_ne_ok (by decide)]
  rfl

/-- Settles O25: with an empty list no word is presented, and the block idles. -/
theorem idleStepChangesNothing : Obligations.IdleStepChangesNothing :=
  fun s hpending => step_of_idle ((presented_eq_none_iff s).mpr hpending)

/-- Every command in every state answers a next state. -/
theorem exec_eq_next (i : Instr) (s : State) : ∃ s', exec i s = .next s' := by
  rcases exec_cases i s with ⟨-, v, -, hexec⟩ | ⟨-, hexec⟩
  · exact ⟨_, hexec⟩
  · exact ⟨_, hexec⟩

/-- R31, D17: a presented word is taken by the step, whether it decodes or not and whether its command is
accepted or rejected. -/
theorem step_takes_presented {s : State} {w : CmdWord} (h : presented s = some w) :
    ∃ s', step s = .next s' ∧ s'.params = s.params ∧ s'.host = (takeWord s).host := by
  cases hdecode : decode w with
  | error e => exact ⟨_, step_of_illegal h hdecode, rfl, rfl⟩
  | ok i =>
    obtain ⟨s', hexec⟩ := exec_eq_next i (takeWord s)
    exact ⟨s', (step_of_legal h hdecode).trans hexec, exec_keeps_params_host hexec⟩

/-- Settles O26: an idle step changes nothing, and any other takes the word at the head of the list. -/
theorem everyStepGoesOnAndTakesThePresentedWord : Obligations.EveryStepGoesOnAndTakesThePresentedWord := by
  intro s
  cases hpending : s.host.pending with
  | nil => exact ⟨s, idleStepChangesNothing s hpending, rfl, hpending, rfl⟩
  | cons w rest =>
    obtain ⟨s', hstep, hparams, hhost⟩ := step_takes_presented (presented_of_pending_cons hpending)
    rw [takeWord_of_pending_cons hpending] at hhost
    have hone : min 1 (w :: rest).length = 1 := Nat.min_eq_left (Nat.le_add_left 1 rest.length)
    exact ⟨s', hstep, hparams, by rw [hhost, List.tail_cons], by rw [hhost, hone]⟩

end Sys2Proof.Machine
end

section
/-! PROOF. Block reset, the boot order, and the two hazards of a shadow that the chip does not share (R200 to R206,
R211, U13). -/

namespace Sys2Proof.Machine

/-- Settles O3: by the definition of block reset, for each element. -/
theorem blockResetFromAnyState : Obligations.BlockResetFromAnyState :=
  fun s => ⟨voiceReset s.params, rfl, rfl⟩

/-! Before `start` (U13). -/

/-- U13: to a chip that had no `Reset`, events without one make nothing known. -/
theorem chip_hear_none {t : List BusEvent} (hreset : .reset ∉ t) : Chip.hear none t = none :=
  (chipOfTrace_eq_none t).2 hreset

/-- D16: a command other than `start` leaves a chip that had no `Reset` as it is. -/
theorem exec_keeps_chip_none {i : Instr} {s s' : State} (hi : i ≠ .start) (hchip : s.chip = none)
    (hexec : exec i s = .next s') : s'.chip = none := by
  rcases exec_next_cases hexec with ⟨-, v, -, rfl⟩ | ⟨-, rfl⟩
  · rw [effect_chip, hchip]
    exact chip_hear_none (mt (reset_mem_eventsOf_iff i v s).1 hi)
  · exact hchip

/-- Settles O31: the chip stays without a `Reset`, and the number of events does not depend on the chip. -/
theorem nothingIsKnownOfTheChipBeforeStart : Obligations.NothingIsKnownOfTheChipBeforeStart := by
  intro i s hchip hi
  obtain ⟨s', ev, hexec, htrace, hcount, -⟩ := eventCountsOfR151 i s
  have hnone : s'.chip = none := exec_keeps_chip_none hi hchip hexec
  refine ⟨s', hexec, hnone, fun a => ?_, fun hok => ?_⟩
  · rw [hnone, chip_read_none]
  · rw [emitted_of_trace_append htrace, hcount hok]

/-! From `start` on (R204). -/

theorem beginsWithStart_iff (t : List BusEvent) :
    beginsWithStart t = true ↔ [.startClock, .reset] <+: t :=
  List.isPrefixOf_iff_prefix

/-- The head of the trace stays when events are appended. -/
theorem beginsWithStart_append {t : List BusEvent} (ev : List BusEvent) (h : beginsWithStart t = true) :
    beginsWithStart (t ++ ev) = true :=
  (beginsWithStart_iff _).2 (((beginsWithStart_iff t).1 h).trans (List.prefix_append t ev))

/-- The replay of a trace that begins with `start` has had its `Reset`. -/
theorem chipOfTrace_ne_none_of_beginsWithStart {t : List BusEvent} (h : beginsWithStart t = true) :
    chipOfTrace t ≠ none := by
  rw [Ne, chipOfTrace_eq_none, not_not]
  exact ((beginsWithStart_iff t).1 h).subset (by simp)

/-- Once the chip was reset, events without a further `Reset` make known every byte that they write: the last
write to an address stands. -/
theorem chip_read_hear_of_written {t : List BusEvent} {a : Nat} {c : Chip} (hc : c ≠ none)
    (hreset : .reset ∉ t) (ha : a ∈ t.filterMap BusEvent.writeAddress) :
    ∃ d, (c.hear t).read a = some d := by
  induction t generalizing c with
  | nil => cases ha
  | cons e t ih =>
    have hreset' : .reset ∉ t := mt (List.mem_cons_of_mem e) hreset
    cases e with
    | startClock => exact ih hc hreset' ha
    | reset => exact absurd List.mem_cons_self hreset
    | write b d =>
      rw [chip_hear_cons, chipAfter_write]
      by_cases hlater : a ∈ t.filterMap BusEvent.writeAddress
      · exact ih (mt (chip_write_eq_none c _ d).1 hc) hreset' hlater
      · have hb : a = b.toNat := (List.mem_cons.1 ha).resolve_right hlater
        exact ⟨d, by rw [chip_read_hear_of_not_written _ hreset' hlater, chip_read_write_of_ne_none hc,
          if_pos hb]⟩

/-- R204 step 3: once the chip was reset, an effect makes known the byte at every address that its command stores
to; `start` stores to none. -/
theorem effect_chip_read_stored {i : Instr} {v : VoiceIdx} {s : State} {a : Nat} (hchip : s.chip ≠ none)
    (hv : ∀ b, voiceOperand i = some b → b.toNat = v.val) (ha : a ∈ storedAddresses s.params i) :
    ∃ d, (effect i v s).chip.read a = some d := by
  have hi : i ≠ .start := by
    rintro rfl
    cases ha
  rw [effect_chip]
  exact chip_read_hear_of_written hchip (mt (reset_mem_eventsOf_iff i v s).1 hi)
    (eventsOf_writeAddress s hv ▸ ha)

/-- Settles O32: `start` puts the head on the empty trace, no step drops an event, and a trace with that head has
reset the chip. -/
theorem bootOrderOfR204 : Obligations.BootOrderOfR204 := by
  refine ⟨fun p => ⟨_, startEmitsClockThenReset _, rfl, fun _ => rfl, rfl⟩, fun s s' hstart hstep => ?_,
    fun i s hstart hreplay hok => ?_⟩
  · obtain ⟨ev, htrace, -⟩ := traceOnlyGrows s s' hstep
    rw [htrace]
    exact beginsWithStart_append ev hstart
  · have hchip : s.chip ≠ none := hreplay ▸ chipOfTrace_ne_none_of_beginsWithStart hstart
    rcases exec_cases i s with ⟨-, v, hv, hexec⟩ | ⟨hfail, -⟩
    · exact ⟨_, hexec, fun a ha => effect_chip_read_stored hchip hv ha⟩
    · exact absurd hok hfail

/-! The hazards. -/

/-- A voice index, taken to an operand, keeps its value. -/
theorem voiceIdx_operand_toNat (v : VoiceIdx) : (BitVec.ofNat 8 v.val).toNat = v.val := by
  rw [BitVec.toNat_ofNat]
  omega

/-- R144: on a gated voice, `setWaveform` writes its mask with the gate bit set. -/
theorem eventsOf_setWaveform_of_gate {s : State} {v : VoiceIdx} (hgate : (s.voice v).gate = true) (b : Byte)
    (w : Waveform) :
    eventsOf (.setWaveform b w) v s = [.write (voiceAddr v .control) (w.mask ||| 1)] := by
  rw [eventsOf, hgate, ctrlByte_eq_or_ite, if_pos rfl]

/-- R33, R141: `start` makes every chip byte unknown, and leaves the shadow. -/
theorem exec_start_chip_voices (s : State) :
    ∃ t, exec .start s = .next t ∧ t.chip = some [] ∧ t.voices = s.voices :=
  ⟨_, startEmitsClockThenReset s, rfl, rfl⟩

/-- Settles O55: `start` leaves the gate in the shadow and nothing known of the chip, and the one write of
`setWaveform` that follows carries that gate. -/
theorem startLeavesAStaleGate : Obligations.StartLeavesAStaleGate := by
  intro s v w hgate
  obtain ⟨t, hstart, hchip, hvoices⟩ := exec_start_chip_voices s
  have hv := voiceIdx_operand_toNat v
  have hok : firstFailure (.setWaveform (BitVec.ofNat 8 v.val) w) = .ok := if_neg (not_two_lt_of_eq_voice hv)
  have hstale : (t.voice v).gate = true := by rwa [State.voice, hvoices]
  have hevents := eventsOf_setWaveform_of_gate hstale (BitVec.ofNat 8 v.val) w
  have hafter : (effect (.setWaveform (BitVec.ofNat 8 v.val) w) v t).chip =
      Chip.write (some []) (7 * v.val + 4) (w.mask ||| 1) := by
    rw [effect_chip, hchip, hevents, chip_hear_cons, chipAfter_write, voiceAddr_toNat]
    rfl
  refine ⟨t, _, hstart, fun a => by rw [hchip]; rfl, hvoices, exec_of_accepted_voice hok rfl hv t, ?_, ?_,
    fun a ha => ?_⟩
  · exact (emitted_of_trace_append (effect_trace ..)).trans hevents
  · rw [hafter, chip_read_write_of_ne_none (Option.some_ne_none []), if_pos rfl]
  · rw [hafter, chip_read_write_ne _ ha]
    rfl

/-- Settles O56: the control byte, the last of the three events, has the waveform that the shadow had, and the
effect leaves that waveform. -/
theorem playNoteBeforeSetWaveformUsesResetWave : Obligations.PlayNoteBeforeSetWaveformUsesResetWave := by
  intro s v n vel hwave hvel
  have hv := voiceIdx_operand_toNat v
  have hok : firstFailure (.playNote (BitVec.ofNat 8 v.val) n vel) = .ok :=
    (if_neg (not_two_lt_of_eq_voice hv)).trans (if_neg hvel.not_gt)
  refine ⟨_, exec_of_accepted_voice hok rfl hv s, ?_, ?_⟩
  · rw [effect_trace, eventsOf, hwave, ctrlByte_eq_or_ite]
    simp [voiceAddr, voiceStride, regOffset, velToGate]
  · rw [effect_voice, if_pos rfl]
    exact hwave

end Sys2Proof.Machine
end
